-- ==== Sys2Proof/Word.lean ====
section
/-! DEFINITION. The byte sequences of 00_scope.md R8 and R11: Byte, Word (4 bytes), Block (16 bytes), RoundKey,
Schedule (11 round keys), and the 32-bit bus word Reg32. Only the types and their all-zero values stand here; every
operation on them is in Machine/Operands.lean. -/

namespace Sys2Proof

/-- An 8-bit unsigned value (R11). -/
abbrev Byte := BitVec 8

/-- A 32-bit unsigned bus word (R11). -/
abbrev Reg32 := BitVec 32

/-- A sequence of 4 bytes, `a0` first (R11). -/
@[ext] structure Word where
  a0 : Byte
  a1 : Byte
  a2 : Byte
  a3 : Byte
deriving DecidableEq, Repr

/-- A sequence of 16 bytes, kept as its four columns: column c holds bytes 4c .. 4c+3, top to bottom (R12). -/
@[ext] structure Block where
  c0 : Word
  c1 : Word
  c2 : Word
  c3 : Word
deriving DecidableEq, Repr

/-- A round key is a block (R11). -/
abbrev RoundKey := Block

/-- The 11 round keys RK[0..10], 176 bytes (R8, R11). -/
@[ext] structure Schedule where
  rk0 : RoundKey
  rk1 : RoundKey
  rk2 : RoundKey
  rk3 : RoundKey
  rk4 : RoundKey
  rk5 : RoundKey
  rk6 : RoundKey
  rk7 : RoundKey
  rk8 : RoundKey
  rk9 : RoundKey
  rk10 : RoundKey
deriving DecidableEq, Repr

/-- Four bytes 0x00. -/
def Word.zero : Word := ⟨0, 0, 0, 0⟩

/-- Sixteen bytes 0x00. -/
def Block.zero : Block := ⟨Word.zero, Word.zero, Word.zero, Word.zero⟩

/-- 176 bytes 0x00. -/
def Schedule.zero : Schedule :=
  ⟨Block.zero, Block.zero, Block.zero, Block.zero, Block.zero, Block.zero, Block.zero, Block.zero, Block.zero,
    Block.zero, Block.zero⟩

end Sys2Proof
end

