-- ==== Sys2Proof/Syntax.lean ====
section
/-! DEFINITION. The commands of 30_encoding.md R93, one constructor per row of spec/opcode_table.json, in its order. LEN
and RKIDX are counts and indexes, so Nat (WellFormed.lean bounds them by their field); table arguments are bytes. -/

namespace Sys2Proof

inductive Instr where
  | nop
  | keyExpand (len : Nat)
  | encrypt (len : Nat)
  | decrypt (len : Nat)
  | loadState
  | subBytes
  | invSubBytes
  | shiftRows
  | invShiftRows
  | mixColumns
  | invMixColumns
  | addRoundKey (k : Nat)
  | encRound (k : Nat)
  | encLast (k : Nat)
  | decRound (k : Nat)
  | decLast (k : Nat)
  | lutSbox (a : Byte)
  | lutInvSbox (a : Byte)
  | lutRcon (r : Byte)
  | lutGfMul (a b : Byte)
deriving DecidableEq, Repr

end Sys2Proof
end

