-- ==== Sys2Proof/WellFormed.lean ====
section
/-! DEFINITION. When a command can be written as a word: its operand fits its field (30_encoding.md R92). A LEN other than
16 or an RKIDX of 11..15 is well formed: such a word is legal and the command raises an error (R94, R95). -/

namespace Sys2Proof

/-- LEN is an 8-bit field (R92, R94). -/
def lenFits (len : Nat) : Bool := decide (len < 256)

/-- RKIDX is a 4-bit field (R92, R95). -/
def rkidxFits (k : Nat) : Bool := decide (k < 16)

def Instr.wellFormed : Instr → Bool
  | .nop => true
  | .keyExpand len => lenFits len
  | .encrypt len => lenFits len
  | .decrypt len => lenFits len
  | .loadState => true
  | .subBytes => true
  | .invSubBytes => true
  | .shiftRows => true
  | .invShiftRows => true
  | .mixColumns => true
  | .invMixColumns => true
  | .addRoundKey k => rkidxFits k
  | .encRound k => rkidxFits k
  | .encLast k => rkidxFits k
  | .decRound k => rkidxFits k
  | .decLast k => rkidxFits k
  | .lutSbox _ => true
  | .lutInvSbox _ => true
  | .lutRcon _ => true
  | .lutGfMul _ _ => true

end Sys2Proof
end

