-- ==== Sys2Proof/Decode.lean ====
section
/-! DEFINITION. Decoding a command word (30_encoding.md R91 to R99) and encoding a command (R93, R101). -/

namespace Sys2Proof

/-- The five formats of R92. -/
inductive Format where
  | n
  | l
  | k
  | t
  | t2
deriving DecidableEq, Repr

/-- The bits a format requires to be 0 (R99). -/
def fixedZero : Format → Reg32
  | .n => 0xFFFFFFE0
  | .l => 0xFFFF00E0
  | .k => 0xFFFFF0E0
  | .t => 0xFFFF00E0
  | .t2 => 0xFF0000E0

/-- Why a word is illegal (R97). -/
inductive IllegalReason where
  /-- OP is in 0x14..0x1F. -/
  | reservedOpcode
  /-- A bit that the format requires to be 0 is 1. -/
  | mustBeZeroBitSet
deriving DecidableEq, Repr

/-- What a word decodes to (R99). -/
inductive Decoded where
  | command (i : Instr)
  | illegal (why : IllegalReason)
deriving DecidableEq, Repr

/-- OP = v[4:0] (R91). -/
def opField (v : Reg32) : Nat := (v.extractLsb' 0 5).toNat

/-- Field A = v[15:8] (R91): LEN, ARG_A. -/
def fieldA (v : Reg32) : Byte := v.extractLsb' 8 8

/-- RKIDX = v[11:8] (R92). -/
def fieldK (v : Reg32) : Nat := (v.extractLsb' 8 4).toNat

/-- Field B = v[23:16] (R91): ARG_B. -/
def fieldB (v : Reg32) : Byte := v.extractLsb' 16 8

/-- The opcode map (R93): the format of an opcode and the command its fields make; none for 0x14..0x1F. -/
def opcodeMap (op : Nat) (v : Reg32) : Option (Format × Instr) :=
  match op with
  | 0x00 => some (.n, .nop)
  | 0x01 => some (.l, .keyExpand (fieldA v).toNat)
  | 0x02 => some (.l, .encrypt (fieldA v).toNat)
  | 0x03 => some (.l, .decrypt (fieldA v).toNat)
  | 0x04 => some (.n, .loadState)
  | 0x05 => some (.n, .subBytes)
  | 0x06 => some (.n, .invSubBytes)
  | 0x07 => some (.n, .shiftRows)
  | 0x08 => some (.n, .invShiftRows)
  | 0x09 => some (.n, .mixColumns)
  | 0x0A => some (.n, .invMixColumns)
  | 0x0B => some (.k, .addRoundKey (fieldK v))
  | 0x0C => some (.k, .encRound (fieldK v))
  | 0x0D => some (.k, .encLast (fieldK v))
  | 0x0E => some (.k, .decRound (fieldK v))
  | 0x0F => some (.k, .decLast (fieldK v))
  | 0x10 => some (.t, .lutSbox (fieldA v))
  | 0x11 => some (.t, .lutInvSbox (fieldA v))
  | 0x12 => some (.t, .lutRcon (fieldA v))
  | 0x13 => some (.t2, .lutGfMul (fieldA v) (fieldB v))
  | _ => none

/-- `decode` of R99, total on every 32-bit word (R98). -/
def decode (v : Reg32) : Decoded :=
  match opcodeMap (opField v) v with
  | none => .illegal .reservedOpcode
  | some (fmt, i) => if v &&& fixedZero fmt ≠ 0 then .illegal .mustBeZeroBitSet else .command i

/-- The opcode of a command (R93). -/
def opcode : Instr → Nat
  | .nop => 0x00
  | .keyExpand _ => 0x01
  | .encrypt _ => 0x02
  | .decrypt _ => 0x03
  | .loadState => 0x04
  | .subBytes => 0x05
  | .invSubBytes => 0x06
  | .shiftRows => 0x07
  | .invShiftRows => 0x08
  | .mixColumns => 0x09
  | .invMixColumns => 0x0A
  | .addRoundKey _ => 0x0B
  | .encRound _ => 0x0C
  | .encLast _ => 0x0D
  | .decRound _ => 0x0E
  | .decLast _ => 0x0F
  | .lutSbox _ => 0x10
  | .lutInvSbox _ => 0x11
  | .lutRcon _ => 0x12
  | .lutGfMul _ _ => 0x13

/-- The format of a command (R93). -/
def formatOf : Instr → Format
  | .nop => .n
  | .keyExpand _ => .l
  | .encrypt _ => .l
  | .decrypt _ => .l
  | .loadState => .n
  | .subBytes => .n
  | .invSubBytes => .n
  | .shiftRows => .n
  | .invShiftRows => .n
  | .mixColumns => .n
  | .invMixColumns => .n
  | .addRoundKey _ => .k
  | .encRound _ => .k
  | .encLast _ => .k
  | .decRound _ => .k
  | .decLast _ => .k
  | .lutSbox _ => .t
  | .lutInvSbox _ => .t
  | .lutRcon _ => .t
  | .lutGfMul _ _ => .t2

/-- What stands in field A of a command's word (R92, R101); 0 for format N. -/
def operandA : Instr → Byte
  | .nop => 0
  | .keyExpand len => BitVec.ofNat 8 len
  | .encrypt len => BitVec.ofNat 8 len
  | .decrypt len => BitVec.ofNat 8 len
  | .loadState => 0
  | .subBytes => 0
  | .invSubBytes => 0
  | .shiftRows => 0
  | .invShiftRows => 0
  | .mixColumns => 0
  | .invMixColumns => 0
  | .addRoundKey k => BitVec.ofNat 8 k
  | .encRound k => BitVec.ofNat 8 k
  | .encLast k => BitVec.ofNat 8 k
  | .decRound k => BitVec.ofNat 8 k
  | .decLast k => BitVec.ofNat 8 k
  | .lutSbox a => a
  | .lutInvSbox a => a
  | .lutRcon r => r
  | .lutGfMul a _ => a

/-- What stands in field B of a command's word (R92, R101); 0 outside format T2. -/
def operandB : Instr → Byte
  | .lutGfMul _ b => b
  | .nop | .keyExpand _ | .encrypt _ | .decrypt _ | .loadState | .subBytes | .invSubBytes | .shiftRows
  | .invShiftRows | .mixColumns | .invMixColumns | .addRoundKey _ | .encRound _ | .encLast _ | .decRound _
  | .decLast _ | .lutSbox _ | .lutInvSbox _ | .lutRcon _ => 0

/-- The assembled word `op | a << 8 | b << 16` (R101). -/
def assemble (op : Nat) (a b : Byte) : Reg32 :=
  BitVec.ofNat 32 op ||| (a.setWidth 32 <<< 8) ||| (b.setWidth 32 <<< 16)

/-- The word of a well-formed command (R101). -/
def encode (i : Instr) : Reg32 := assemble (opcode i) (operandA i) (operandB i)

/-- The mask of a format's row in opcode_table.json: `fixedZero(fmt) OR 0x1F` (R99). -/
def rowMask (fmt : Format) : Reg32 := fixedZero fmt ||| 0x1F

/-- What the decoder reads from a row's word: the low `nbits` bits of `w`, every bit above them 0. A command is exactly one
32-bit word (R90), so a number of more than 32 bits is no command. -/
def decodeTableWord (nbits w : Nat) : Option Instr :=
  if w % 2 ^ nbits < 2 ^ 32 then
    match decode (BitVec.ofNat 32 (w % 2 ^ nbits)) with
    | .command i => some i
    | .illegal _ => none
  else none

end Sys2Proof
end

