-- ==== Sys2Proof/Config.lean ====
section
/-! DEFINITION. What an implementation fixes (00_scope.md R9) and the free values of the model. None of the constants
has a body: nothing can be proved about the value of one, so a claim holds for every value. -/

namespace Sys2Proof.Config

/-- HW_ACCEL_PRESENT (R9, R257, U11): whether the hardware round unit exists. Log 6. -/
opaque hwAccelPresent : Bool

/-- The number of the 256-byte page the register window stands in; see `base`. Log 7. -/
opaque basePage : Nat

/-- BASE (R9, D3, U12): the bus address of the register window, 256-byte aligned. -/
def base : Nat := 256 * basePage

/-- How many host operations come before the completion step in the busy window that begins at the given draw: the
interleaving of R274 and the latency of R332 are left open; weak fairness (R36) makes it a finite number. Log 4. -/
opaque busyTurns : Nat → Nat

/-- `draw32()` of R271 and R335: the value of a read of DOUT, RKDATA or LUT while BUSY = 1. Log 5. -/
opaque freeWord : Nat → Reg32

/-- The KEY_VALID field of a STATUS read while BUSY = 1 (R38, R335, U2). Log 5. -/
opaque freeKeyValid : Nat → BitVec 1

/-- The ERR field of a STATUS read while BUSY = 1 (R38, R335, U2). Log 5. -/
opaque freeErr : Nat → BitVec 4

end Sys2Proof.Config
end

