-- ==== Sys2Proof/Machine/State.lean ====
section
/-! DEFINITION. The state of the core (10_state.md), the host's operations and the reasons a step can stop. Plain data. -/

namespace Sys2Proof.Machine

/-- The execution path of the accelerator mux (R31, R257). -/
inductive ExecPath where
  | sw
  | hw
deriving DecidableEq, Repr

/-- The value PATH takes at reset: `HW_ACCEL_PRESENT ? HW : SW` (R31, R330). -/
def ExecPath.latched : ExecPath := if Config.hwAccelPresent then .hw else .sw

/-- The result of a command, by the names of R300. UnsupportedHardwarePath has none (R258). -/
inductive ErrCode where
  | success
  | invalidKeyLength
  | invalidBlockLength
  | invalidKeySchedule
  | illegalCommand
  | illegalArgument
deriving DecidableEq, Repr

/-- The state elements a command's Result names, each with its new value (R36, R100). -/
structure Writes where
  state : Option Block := none
  rk : Option Schedule := none
  keyValid : Option Bool := none
  lut : Option Byte := none
deriving DecidableEq, Repr

/-- A Result: a set of state writes, which may be empty, and an ERR code (R100). PENDING holds one (R32). -/
structure Result where
  writes : Writes
  err : ErrCode
deriving DecidableEq, Repr

/-- Where a host access goes: at a byte offset of the window (`BusRead(off)`, R13), or at a bus address (R9, R69). -/
inductive BusAddr where
  | window (off : Nat)
  | absolute (addr : Nat)
deriving DecidableEq, Repr

inductive AccessKind where
  | read
  | write
deriving DecidableEq, Repr

/-- A host access: its kind, its width in bits and its place. -/
structure Access where
  kind : AccessKind
  width : Nat
  addr : BusAddr
deriving DecidableEq, Repr

/-- One operation of the host, or of the reset input, in the order they happen (R70, R274). -/
inductive HostOp where
  /-- A bus read of the given width in bits. -/
  | read (width : Nat) (addr : BusAddr)
  /-- A bus write of the given width in bits. -/
  | write (width : Nat) (addr : BusAddr) (v : Reg32)
  /-- The `poll` loop of R102: it ends when a read of STATUS returns BUSY = 0. Log 9. -/
  | poll
  /-- The reset input is asserted and released (R330, R331). -/
  | reset
deriving DecidableEq, Repr

/-- The machine: the state elements of 10_state.md under their own names, then the model's own fields. -/
structure State where
  /-- KEY (R21). -/
  key : Block
  /-- DIN (R22). -/
  din : Block
  /-- STATE (R23), read as DOUT0..3. -/
  state : Block
  /-- RK[0..10] (R24). -/
  rk : Schedule
  /-- KEY_VALID (R25). -/
  keyValid : Bool
  /-- LUT_RESULT (R26). -/
  lut : Byte
  /-- RKSEL (R27). -/
  rksel : BitVec 4
  /-- ERR (R28). -/
  err : BitVec 4
  /-- BUSY (R29). -/
  busy : Bool
  /-- WDROP (R30). -/
  wdrop : Bool
  /-- PATH (R31). -/
  path : ExecPath
  /-- PENDING (R32); none outside a busy window. -/
  pending : Option Result
  /-- The model's own: host operations that may still come before the completion step of this busy window. Log 4. -/
  turns : Nat
  /-- The model's own: the counter that free values are applied to. Log 5. -/
  draws : Nat
  /-- The model's own: the host's operations still to come, oldest first. Log 3. -/
  host : List HostOp
  /-- The model's own: the values bus reads have returned, newest first. Log 3. -/
  reads : List Reg32
deriving DecidableEq, Repr

/-- The machine right after reset (R330), with no host operation waiting and nothing read (log 3, log 4, log 5). -/
def State.reset : State where
  key := Block.zero
  din := Block.zero
  state := Block.zero
  rk := Schedule.zero
  keyValid := false
  lut := 0
  rksel := 0
  err := 0
  busy := false
  wdrop := false
  path := ExecPath.latched
  pending := none
  turns := 0
  draws := 0
  host := []
  reads := []

/-- Why the machine stops: only a host access that R66 and R273 refuse, "naming the access". All are raised by
`checkAccess` (Machine/Ops.lean) and are safe: nothing can be proved about a run past one. -/
inductive Fault where
  /-- The access is not 32 bits wide (R66). Safe. -/
  | unsupportedWidth (a : Access)
  /-- The offset is not a multiple of 4 (R66). Safe. -/
  | misaligned (a : Access)
  /-- The address is outside the 256-byte window (R66). Safe. -/
  | outsideWindow (a : Access)
deriving DecidableEq, Repr

/-- Why an instruction has no meaning. -/
inductive Refusal where
  /-- Raised by `exec` for an instruction not modelled yet; no arm raises it now. Safe. -/
  | notModelled (mnemonic : String)
deriving DecidableEq, Repr

end Sys2Proof.Machine
end

