-- ==== Sys2Proof/Machine/Operands.lean ====
section
/-! DEFINITION. The operand forms: bytes and matrix entries of a block (00_scope.md R10 to R12), bytewise XOR (R11), the
packing of bytes into a bus word (20_memory.md R61), and the checked operands LEN, RKIDX and the Rcon argument
(30_encoding.md R94 to R96). A check that fails answers the error it raises. -/

namespace Sys2Proof

/-- Byte k of a word. -/
def Word.byte (w : Word) : Fin 4 → Byte
  | 0 => w.a0
  | 1 => w.a1
  | 2 => w.a2
  | 3 => w.a3

/-- The word with byte k equal to `f k`. -/
def Word.ofFn (f : Fin 4 → Byte) : Word := ⟨f 0, f 1, f 2, f 3⟩

/-- `f` on every byte. -/
def Word.map (f : Byte → Byte) (w : Word) : Word := ⟨f w.a0, f w.a1, f w.a2, f w.a3⟩

/-- Bytewise exclusive or (R11). -/
def Word.xor (x y : Word) : Word := ⟨x.a0 ^^^ y.a0, x.a1 ^^^ y.a1, x.a2 ^^^ y.a2, x.a3 ^^^ y.a3⟩

/-- Column c of a block as a word (R12). -/
def Block.col (b : Block) : Fin 4 → Word
  | 0 => b.c0
  | 1 => b.c1
  | 2 => b.c2
  | 3 => b.c3

/-- The block with column n replaced. -/
def Block.setCol (b : Block) (n : Fin 4) (w : Word) : Block :=
  match n with
  | 0 => { b with c0 := w }
  | 1 => { b with c1 := w }
  | 2 => { b with c2 := w }
  | 3 => { b with c3 := w }

/-- `s[r,c]`, the entry in row r and column c of the matrix view (R12). -/
def Block.entry (b : Block) (r c : Fin 4) : Byte := (b.col c).byte r

/-- Byte i of a block: `b[i] = s[i mod 4, i div 4]` (R12, R64). -/
def Block.byte (b : Block) (i : Fin 16) : Byte := b.entry ⟨i.val % 4, by omega⟩ ⟨i.val / 4, by omega⟩

/-- The block with entry `f r c` in row r and column c. -/
def Block.ofMatrix (f : Fin 4 → Fin 4 → Byte) : Block :=
  ⟨Word.ofFn (fun r => f r 0), Word.ofFn (fun r => f r 1), Word.ofFn (fun r => f r 2), Word.ofFn (fun r => f r 3)⟩

/-- `f` on every byte. -/
def Block.map (f : Byte → Byte) (b : Block) : Block := ⟨b.c0.map f, b.c1.map f, b.c2.map f, b.c3.map f⟩

/-- Bytewise exclusive or (R11). -/
def Block.xor (x y : Block) : Block := ⟨x.c0.xor y.c0, x.c1.xor y.c1, x.c2.xor y.c2, x.c3.xor y.c3⟩

/-- `RK[k]` for k in 0..10; there is no other round key (R8, R24). -/
def Schedule.roundKey (rk : Schedule) : Nat → Option RoundKey
  | 0 => some rk.rk0
  | 1 => some rk.rk1
  | 2 => some rk.rk2
  | 3 => some rk.rk3
  | 4 => some rk.rk4
  | 5 => some rk.rk5
  | 6 => some rk.rk6
  | 7 => some rk.rk7
  | 8 => some rk.rk8
  | 9 => some rk.rk9
  | 10 => some rk.rk10
  | _ => none

/-- The schedule with round key r equal to `f r`. -/
def Schedule.ofFn (f : Nat → RoundKey) : Schedule :=
  ⟨f 0, f 1, f 2, f 3, f 4, f 5, f 6, f 7, f 8, f 9, f 10⟩

end Sys2Proof

namespace Sys2Proof.Machine

/-- `pack(b0,b1,b2,b3) = b0<<24 | b1<<16 | b2<<8 | b3` (R61). -/
def pack (w : Word) : Reg32 :=
  (w.a0.setWidth 32 <<< 24) ||| (w.a1.setWidth 32 <<< 16) ||| (w.a2.setWidth 32 <<< 8) ||| w.a3.setWidth 32

/-- `unpack(v) = (v[31:24], v[23:16], v[15:8], v[7:0])` (R61). -/
def unpack (v : Reg32) : Word :=
  ⟨v.extractLsb' 24 8, v.extractLsb' 16 8, v.extractLsb' 8 8, v.extractLsb' 0 8⟩

/-- The LEN operand (R94): only 16 is legal; any other value raises the given length error. -/
def operandLength (len : Nat) (e : ErrCode) : Except ErrCode Unit :=
  if len ≠ 16 then .error e else .ok ()

/-- The RKIDX operand (R95): the round key it names, or IllegalArgument. -/
def operandRoundKey (k : Nat) (rk : Schedule) : Except ErrCode RoundKey :=
  match rk.roundKey k with
  | none => .error .illegalArgument
  | some key => .ok key

end Sys2Proof.Machine
end

