-- ==== Sys2Proof/Machine/Flags.lean ====
section
/-! DEFINITION. The status of the core: the error codes (60_exceptions.md R300), the KEY_VALID check (R305) and the two
views of STATUS (10_state.md R38, 70_reset_and_hazards.md R335). -/

namespace Sys2Proof.Machine

/-- `code(E)` (R300). -/
def ErrCode.code : ErrCode → BitVec 4
  | .success => 0
  | .invalidKeyLength => 1
  | .invalidBlockLength => 2
  | .invalidKeySchedule => 3
  | .illegalCommand => 4
  | .illegalArgument => 5

/-- A command that reads RK raises InvalidKeySchedule when KEY_VALID = 0 (R305). -/
def requireSchedule (keyValid : Bool) : Except ErrCode Unit :=
  if keyValid then .ok () else .error .invalidKeySchedule

/-- HWACC: 1 iff PATH = HW (R38, R259). -/
def hwacc : ExecPath → BitVec 1
  | .sw => 0
  | .hw => 1

/-- The bits of STATUS, each field in its place (R38). -/
def statusBits (err : BitVec 4) (wdrop : BitVec 1) (hw : BitVec 1) (keyValid : BitVec 1) (busy : BitVec 1) : Reg32 :=
  (err.setWidth 32 <<< 8) ||| (wdrop.setWidth 32 <<< 3) ||| (hw.setWidth 32 <<< 2) ||| (keyValid.setWidth 32 <<< 1) |||
    busy.setWidth 32

/-- What a read of STATUS returns (R38): with BUSY = 1 the KEY_VALID and ERR fields are free draws, the rest is exact. -/
def statusView (s : State) : Reg32 :=
  if s.busy then
    statusBits (Config.freeErr s.draws) (BitVec.ofBool s.wdrop) (hwacc s.path) (Config.freeKeyValid s.draws) 1
  else
    statusBits s.err (BitVec.ofBool s.wdrop) (hwacc s.path) (BitVec.ofBool s.keyValid) 0

end Sys2Proof.Machine
end

