-- ==== Sys2Proof/Machine/Ops.lean ====
section
/-! DEFINITION. The shared operations: raising an error, accepting a command and completing it, reset, and the registers of
the window (10_state.md R35 to R45, 45_host_access.md R271 to R273).

Raising an error is this hardware's whole exception entry (60_exceptions.md R301, R310): its code goes to ERR at the
completion, nothing else is saved and no control is transferred. There is no return from it (R311): ERR keeps the code until
the next completion or reset. -/

namespace Sys2Proof.Machine

/-- `raise E` (R301): the Result that names no state element except ERR. -/
def Result.raise (e : ErrCode) : Result := ⟨{}, e⟩

/-- The Result of a command rule: the writes of a rule that raised nothing with ERR <- 0, or the error it raised (R100). -/
def finish : Except ErrCode Writes → Result
  | .error e => Result.raise e
  | .ok w => ⟨w, .success⟩

/-- Acceptance (R35): PENDING <- res, BUSY <- 1. The length of the busy window is a free value (log 4). -/
def accept (r : Result) (s : State) : State :=
  { s with pending := some r, busy := true, turns := Config.busyTurns s.draws, draws := s.draws + 1 }

/-- A command accepted with the Result of its rule on the snapshot s (R35, R100). -/
def acceptRule (rule : Except ErrCode Writes) (s : State) : Host.Outcome State Fault Refusal :=
  .next (accept (finish rule) s)

/-- A Result committed: every state element it names takes its value, and ERR its code (R36). -/
def commit (r : Result) (s : State) : State :=
  { s with
    state := r.writes.state.getD s.state
    rk := r.writes.rk.getD s.rk
    keyValid := r.writes.keyValid.getD s.keyValid
    lut := r.writes.lut.getD s.lut
    err := r.err.code }

/-- The completion step (R36): PENDING is committed and BUSY <- 0. (BUSY = 1 with no PENDING is no state of the core; there
only BUSY is cleared. `State.Inv` in Safety.lean rules it out.) -/
def complete (s : State) : State :=
  match s.pending with
  | some r => { commit r s with busy := false, pending := none, turns := 0 }
  | none => { s with busy := false, turns := 0 }

/-- The reset input (R330, R331): every state element takes its reset value and PENDING is discarded. The host's own
operations, what it has read and the model's draw counter are not the core's and stay. -/
def applyReset (s : State) : State := { State.reset with host := s.host, reads := s.reads, draws := s.draws }

/-- The registers of the window (R37). -/
inductive WindowReg where
  | ctrl
  | status
  | key (n : Fin 4)
  | din (n : Fin 4)
  | dout (n : Fin 4)
  | rksel
  | rkdata (n : Fin 4)
  | lut
  | reserved
deriving DecidableEq, Repr

/-- The register at an aligned offset of the window (R37). -/
def regAt (off : Nat) : WindowReg :=
  match off with
  | 0x00 => .ctrl
  | 0x04 => .status
  | 0x10 => .key 0
  | 0x14 => .key 1
  | 0x18 => .key 2
  | 0x1C => .key 3
  | 0x20 => .din 0
  | 0x24 => .din 1
  | 0x28 => .din 2
  | 0x2C => .din 3
  | 0x30 => .dout 0
  | 0x34 => .dout 1
  | 0x38 => .dout 2
  | 0x3C => .dout 3
  | 0x40 => .rksel
  | 0x44 => .rkdata 0
  | 0x48 => .rkdata 1
  | 0x4C => .rkdata 2
  | 0x50 => .rkdata 3
  | 0x54 => .lut
  | _ => .reserved

/-- What RKDATAn shows with BUSY = 0: word n of RK[RKSEL], or 0 for RKSEL 11..15 (R43). -/
def rkdataView (s : State) (n : Fin 4) : Reg32 :=
  match s.rk.roundKey s.rksel.toNat with
  | some key => pack (key.col n)
  | none => 0

/-- Whether a read of the register is a free draw, or holds one, while BUSY = 1 (R335). -/
def WindowReg.drawsWhenBusy : WindowReg → Bool
  | .status => true
  | .dout _ => true
  | .rkdata _ => true
  | .lut => true
  | .ctrl => false
  | .key _ => false
  | .din _ => false
  | .rksel => false
  | .reserved => false

/-- The value a read of the register returns (R271). -/
def readValue (r : WindowReg) (s : State) : Reg32 :=
  match r with
  | .ctrl => 0
  | .status => statusView s
  | .key n => pack (s.key.col n)
  | .din n => pack (s.din.col n)
  | .dout n => if s.busy then Config.freeWord s.draws else pack (s.state.col n)
  | .rksel => s.rksel.setWidth 32
  | .rkdata n => if s.busy then Config.freeWord s.draws else rkdataView s n
  | .lut => if s.busy then Config.freeWord s.draws else s.lut.setWidth 32
  | .reserved => 0

/-- A bus read: its value goes to the host; a read that drew a free value moves the draw counter, nothing else changes
(R68, R271). -/
def busRead (r : WindowReg) (s : State) : State :=
  { s with
    reads := readValue r s :: s.reads
    draws := if s.busy && r.drawsWhenBusy then s.draws + 1 else s.draws }

/-- A host write that the core drops because BUSY = 1 (R336). -/
def dropWrite (s : State) : State := { s with wdrop := true }

/-- A bus write to any register but CTRL (R272): dropped under BUSY for KEY, DIN and RKSEL; STATUS bit 3 clears WDROP at any
time; read-only and reserved registers ignore it. -/
def writeReg (r : WindowReg) (v : Reg32) (s : State) : State :=
  match r with
  | .status => if v.getLsbD 3 then { s with wdrop := false } else s
  | .key n => if s.busy then dropWrite s else { s with key := s.key.setCol n (unpack v) }
  | .din n => if s.busy then dropWrite s else { s with din := s.din.setCol n (unpack v) }
  | .rksel => if s.busy then dropWrite s else { s with rksel := v.extractLsb' 0 4 }
  | .ctrl => s
  | .dout _ => s
  | .rkdata _ => s
  | .lut => s
  | .reserved => s

/-- The byte offset of an access from BASE; none below BASE (R9, R69). -/
def BusAddr.offset : BusAddr → Option Nat
  | .window off => some off
  | .absolute addr => if Config.base ≤ addr then some (addr - Config.base) else none

/-- The register an access reaches, or the fault that refuses it (R66, R273): the only access is 32 bits wide, at a 4-byte
aligned offset in 0x00..0xFC. -/
def checkAccess (a : Access) : Except Fault WindowReg :=
  if a.width ≠ 32 then .error (.unsupportedWidth a)
  else
    match a.addr.offset with
    | none => .error (.outsideWindow a)
    | some off =>
      if 0x100 ≤ off then .error (.outsideWindow a)
      else if off % 4 ≠ 0 then .error (.misaligned a)
      else .ok (regAt off)

end Sys2Proof.Machine
end

