-- ==== Sys2Proof/Machine/Tables.lean ====
section
/-! DEFINITION. ConstantTables (40_tables.md): GF(2^8) multiplication, the S-box, the inverse S-box and Rcon, and the four
lookup commands. -/

namespace Sys2Proof.Machine

/-- Multiplication by x (R122). -/
def xtime (a : Byte) : Byte := (a <<< 1) ^^^ (if a.getLsbD 7 then 0x1B else 0x00)

/-- One turn of the loop of R122, for bit i of b: the pair is (p, a). -/
def gfMulTurn (b : Byte) (q : Byte × Byte) (i : Nat) : Byte × Byte :=
  (if b.getLsbD i then q.1 ^^^ q.2 else q.1, xtime q.2)

/-- `gf_mul(a, b)` in the shift-and-reduce form of R122. -/
def gfMul (a b : Byte) : Byte := ([0, 1, 2, 3, 4, 5, 6, 7].foldl (gfMulTurn b) (0, a)).1

/-- The carry-less product of two polynomials over GF(2), in 16 bits: the XOR, over the bits i of b that are 1, of `a << i`
(R121). -/
def carrylessMul (a b : BitVec 16) : BitVec 16 :=
  (List.range 16).foldl (fun p i => if b.getLsbD i then p ^^^ (a <<< i) else p) 0

/-- SBOX (R125): row b[7:4], column b[3:0]. -/
def sboxRows : List (List Byte) :=
  [[0x63, 0x7c, 0x77, 0x7b, 0xf2, 0x6b, 0x6f, 0xc5, 0x30, 0x01, 0x67, 0x2b, 0xfe, 0xd7, 0xab, 0x76],
   [0xca, 0x82, 0xc9, 0x7d, 0xfa, 0x59, 0x47, 0xf0, 0xad, 0xd4, 0xa2, 0xaf, 0x9c, 0xa4, 0x72, 0xc0],
   [0xb7, 0xfd, 0x93, 0x26, 0x36, 0x3f, 0xf7, 0xcc, 0x34, 0xa5, 0xe5, 0xf1, 0x71, 0xd8, 0x31, 0x15],
   [0x04, 0xc7, 0x23, 0xc3, 0x18, 0x96, 0x05, 0x9a, 0x07, 0x12, 0x80, 0xe2, 0xeb, 0x27, 0xb2, 0x75],
   [0x09, 0x83, 0x2c, 0x1a, 0x1b, 0x6e, 0x5a, 0xa0, 0x52, 0x3b, 0xd6, 0xb3, 0x29, 0xe3, 0x2f, 0x84],
   [0x53, 0xd1, 0x00, 0xed, 0x20, 0xfc, 0xb1, 0x5b, 0x6a, 0xcb, 0xbe, 0x39, 0x4a, 0x4c, 0x58, 0xcf],
   [0xd0, 0xef, 0xaa, 0xfb, 0x43, 0x4d, 0x33, 0x85, 0x45, 0xf9, 0x02, 0x7f, 0x50, 0x3c, 0x9f, 0xa8],
   [0x51, 0xa3, 0x40, 0x8f, 0x92, 0x9d, 0x38, 0xf5, 0xbc, 0xb6, 0xda, 0x21, 0x10, 0xff, 0xf3, 0xd2],
   [0xcd, 0x0c, 0x13, 0xec, 0x5f, 0x97, 0x44, 0x17, 0xc4, 0xa7, 0x7e, 0x3d, 0x64, 0x5d, 0x19, 0x73],
   [0x60, 0x81, 0x4f, 0xdc, 0x22, 0x2a, 0x90, 0x88, 0x46, 0xee, 0xb8, 0x14, 0xde, 0x5e, 0x0b, 0xdb],
   [0xe0, 0x32, 0x3a, 0x0a, 0x49, 0x06, 0x24, 0x5c, 0xc2, 0xd3, 0xac, 0x62, 0x91, 0x95, 0xe4, 0x79],
   [0xe7, 0xc8, 0x37, 0x6d, 0x8d, 0xd5, 0x4e, 0xa9, 0x6c, 0x56, 0xf4, 0xea, 0x65, 0x7a, 0xae, 0x08],
   [0xba, 0x78, 0x25, 0x2e, 0x1c, 0xa6, 0xb4, 0xc6, 0xe8, 0xdd, 0x74, 0x1f, 0x4b, 0xbd, 0x8b, 0x8a],
   [0x70, 0x3e, 0xb5, 0x66, 0x48, 0x03, 0xf6, 0x0e, 0x61, 0x35, 0x57, 0xb9, 0x86, 0xc1, 0x1d, 0x9e],
   [0xe1, 0xf8, 0x98, 0x11, 0x69, 0xd9, 0x8e, 0x94, 0x9b, 0x1e, 0x87, 0xe9, 0xce, 0x55, 0x28, 0xdf],
   [0x8c, 0xa1, 0x89, 0x0d, 0xbf, 0xe6, 0x42, 0x68, 0x41, 0x99, 0x2d, 0x0f, 0xb0, 0x54, 0xbb, 0x16]]

/-- INV_SBOX, laid out like SBOX: the inverse permutation of the table of R125, as the words of R127 define it. (The table
PRINTED under R127 is the forward table again; it contradicts those words, R141, R191, R197 and vector V8. DEDUCED, log 1.) -/
def invSboxRows : List (List Byte) :=
  [[0x52, 0x09, 0x6a, 0xd5, 0x30, 0x36, 0xa5, 0x38, 0xbf, 0x40, 0xa3, 0x9e, 0x81, 0xf3, 0xd7, 0xfb],
   [0x7c, 0xe3, 0x39, 0x82, 0x9b, 0x2f, 0xff, 0x87, 0x34, 0x8e, 0x43, 0x44, 0xc4, 0xde, 0xe9, 0xcb],
   [0x54, 0x7b, 0x94, 0x32, 0xa6, 0xc2, 0x23, 0x3d, 0xee, 0x4c, 0x95, 0x0b, 0x42, 0xfa, 0xc3, 0x4e],
   [0x08, 0x2e, 0xa1, 0x66, 0x28, 0xd9, 0x24, 0xb2, 0x76, 0x5b, 0xa2, 0x49, 0x6d, 0x8b, 0xd1, 0x25],
   [0x72, 0xf8, 0xf6, 0x64, 0x86, 0x68, 0x98, 0x16, 0xd4, 0xa4, 0x5c, 0xcc, 0x5d, 0x65, 0xb6, 0x92],
   [0x6c, 0x70, 0x48, 0x50, 0xfd, 0xed, 0xb9, 0xda, 0x5e, 0x15, 0x46, 0x57, 0xa7, 0x8d, 0x9d, 0x84],
   [0x90, 0xd8, 0xab, 0x00, 0x8c, 0xbc, 0xd3, 0x0a, 0xf7, 0xe4, 0x58, 0x05, 0xb8, 0xb3, 0x45, 0x06],
   [0xd0, 0x2c, 0x1e, 0x8f, 0xca, 0x3f, 0x0f, 0x02, 0xc1, 0xaf, 0xbd, 0x03, 0x01, 0x13, 0x8a, 0x6b],
   [0x3a, 0x91, 0x11, 0x41, 0x4f, 0x67, 0xdc, 0xea, 0x97, 0xf2, 0xcf, 0xce, 0xf0, 0xb4, 0xe6, 0x73],
   [0x96, 0xac, 0x74, 0x22, 0xe7, 0xad, 0x35, 0x85, 0xe2, 0xf9, 0x37, 0xe8, 0x1c, 0x75, 0xdf, 0x6e],
   [0x47, 0xf1, 0x1a, 0x71, 0x1d, 0x29, 0xc5, 0x89, 0x6f, 0xb7, 0x62, 0x0e, 0xaa, 0x18, 0xbe, 0x1b],
   [0xfc, 0x56, 0x3e, 0x4b, 0xc6, 0xd2, 0x79, 0x20, 0x9a, 0xdb, 0xc0, 0xfe, 0x78, 0xcd, 0x5a, 0xf4],
   [0x1f, 0xdd, 0xa8, 0x33, 0x88, 0x07, 0xc7, 0x31, 0xb1, 0x12, 0x10, 0x59, 0x27, 0x80, 0xec, 0x5f],
   [0x60, 0x51, 0x7f, 0xa9, 0x19, 0xb5, 0x4a, 0x0d, 0x2d, 0xe5, 0x7a, 0x9f, 0x93, 0xc9, 0x9c, 0xef],
   [0xa0, 0xe0, 0x3b, 0x4d, 0xae, 0x2a, 0xf5, 0xb0, 0xc8, 0xeb, 0xbb, 0x3c, 0x83, 0x53, 0x99, 0x61],
   [0x17, 0x2b, 0x04, 0x7e, 0xba, 0x77, 0xd6, 0x26, 0xe1, 0x69, 0x14, 0x63, 0x55, 0x21, 0x0c, 0x7d]]

/-- The entry of a table at row b[7:4] and column b[3:0]. -/
def tableEntry (rows : List (List Byte)) (b : Byte) : Byte := (rows.getD (b.toNat / 16) []).getD (b.toNat % 16) 0

/-- `sbox(b) = SBOX[b]` (R125). -/
def sbox (b : Byte) : Byte := tableEntry sboxRows b

/-- `inv_sbox(b) = INV_SBOX[b]` (R127). -/
def invSbox (b : Byte) : Byte := tableEntry invSboxRows b

/-- RCON[1..10] (R129). -/
def rconTable : List Byte := [0x01, 0x02, 0x04, 0x08, 0x10, 0x20, 0x40, 0x80, 0x1B, 0x36]

/-- `rcon(round)` for round in 1..10; it has no value outside (R129, R130). -/
def rcon : Nat → Option Byte
  | 0 => none
  | n + 1 => rconTable[n]?

/-- The argument of LUT_RCON (R96, R142): outside 1..10 it raises IllegalArgument. -/
def operandRcon (r : Byte) : Except ErrCode Byte :=
  match rcon r.toNat with
  | none => .error .illegalArgument
  | some c => .ok c

/-- LUT_RESULT <- v (R26). -/
def lookupRule (v : Byte) : Except ErrCode Writes := .ok { lut := some v }

/-- LUT_RCON's rule (R142). -/
def lutRconRule (r : Byte) : Except ErrCode Writes := do
  let c ← operandRcon r
  lookupRule c

/-- LUT_SBOX (R140). -/
def execLutSbox (a : Byte) (s : State) : Host.Outcome State Fault Refusal := acceptRule (lookupRule (sbox a)) s

/-- LUT_INV_SBOX (R141). -/
def execLutInvSbox (a : Byte) (s : State) : Host.Outcome State Fault Refusal := acceptRule (lookupRule (invSbox a)) s

/-- LUT_RCON (R142). -/
def execLutRcon (r : Byte) (s : State) : Host.Outcome State Fault Refusal := acceptRule (lutRconRule r) s

/-- LUT_GF_MUL (R143). -/
def execLutGfMul (a b : Byte) (s : State) : Host.Outcome State Fault Refusal := acceptRule (lookupRule (gfMul a b)) s

end Sys2Proof.Machine
end

