-- ==== Sys2Proof/Machine/Transforms.lean ====
section
/-! DEFINITION. BlockTransform (42_round_transforms.md): the round transforms, and the commands that apply one to STATE. -/

namespace Sys2Proof.Machine

/-- SubBytes (R180). -/
def subBytes (b : Block) : Block := b.map sbox

/-- InvSubBytes (R181). -/
def invSubBytes (b : Block) : Block := b.map invSbox

/-- ShiftRows (R182): `ShiftRows(s)[r,c] = s[r, (c + r) mod 4]`; arithmetic on `Fin 4` is mod 4. -/
def shiftRows (b : Block) : Block := Block.ofMatrix fun r c => b.entry r (c + r)

/-- InvShiftRows (R183): `InvShiftRows(s)[r,c] = s[r, (c - r) mod 4]`. -/
def invShiftRows (b : Block) : Block := Block.ofMatrix fun r c => b.entry r (c - r)

/-- A column multiplied by one row of a matrix: the XOR of four gf_mul products (R184). -/
def rowTimes (m : Word) (col : Word) : Byte :=
  gfMul m.a0 col.a0 ^^^ gfMul m.a1 col.a1 ^^^ gfMul m.a2 col.a2 ^^^ gfMul m.a3 col.a3

/-- Row r of the forward matrix M (R184). -/
def mixRow : Fin 4 → Word
  | 0 => ⟨2, 3, 1, 1⟩
  | 1 => ⟨1, 2, 3, 1⟩
  | 2 => ⟨1, 1, 2, 3⟩
  | 3 => ⟨3, 1, 1, 2⟩

/-- Row r of the inverse matrix IM (R185). -/
def invMixRow : Fin 4 → Word
  | 0 => ⟨14, 11, 13, 9⟩
  | 1 => ⟨9, 14, 11, 13⟩
  | 2 => ⟨13, 9, 14, 11⟩
  | 3 => ⟨11, 13, 9, 14⟩

/-- MixColumns (R184). -/
def mixColumns (b : Block) : Block := Block.ofMatrix fun r c => rowTimes (mixRow r) (b.col c)

/-- InvMixColumns (R185). -/
def invMixColumns (b : Block) : Block := Block.ofMatrix fun r c => rowTimes (invMixRow r) (b.col c)

/-- AddRoundKey (R190). -/
def addRoundKey (b : Block) (rk : RoundKey) : Block := b.xor rk

/-- STATE <- b (R23). -/
def stateRule (b : Block) : Except ErrCode Writes := .ok { state := some b }

/-- The rule of a format K command (R202, R260): RKIDX names a round key, then KEY_VALID = 1, then STATE <- f(STATE, RK[k]). -/
def keyedRule (f : Block → RoundKey → Block) (k : Nat) (s : State) : Except ErrCode Writes := do
  let rk ← operandRoundKey k s.rk
  requireSchedule s.keyValid
  stateRule (f s.state rk)

/-- LOAD_STATE (R195). -/
def execLoadState (s : State) : Host.Outcome State Fault Refusal := acceptRule (stateRule s.din) s

/-- SUB_BYTES (R196). -/
def execSubBytes (s : State) : Host.Outcome State Fault Refusal := acceptRule (stateRule (subBytes s.state)) s

/-- INV_SUB_BYTES (R197). -/
def execInvSubBytes (s : State) : Host.Outcome State Fault Refusal := acceptRule (stateRule (invSubBytes s.state)) s

/-- SHIFT_ROWS (R198). -/
def execShiftRows (s : State) : Host.Outcome State Fault Refusal := acceptRule (stateRule (shiftRows s.state)) s

/-- INV_SHIFT_ROWS (R199). -/
def execInvShiftRows (s : State) : Host.Outcome State Fault Refusal := acceptRule (stateRule (invShiftRows s.state)) s

/-- MIX_COLUMNS (R200). -/
def execMixColumns (s : State) : Host.Outcome State Fault Refusal := acceptRule (stateRule (mixColumns s.state)) s

/-- INV_MIX_COLUMNS (R201). -/
def execInvMixColumns (s : State) : Host.Outcome State Fault Refusal := acceptRule (stateRule (invMixColumns s.state)) s

/-- ADD_ROUND_KEY (R202). -/
def execAddRoundKey (k : Nat) (s : State) : Host.Outcome State Fault Refusal := acceptRule (keyedRule addRoundKey k s) s

end Sys2Proof.Machine
end

