-- ==== Sys2Proof/Machine/Cipher.lean ====
section
/-! DEFINITION. CipherDriver (43_cipher_driver.md): EncryptBlock, DecryptBlock and their commands. One function per command,
not one per path (44_accelerator.md R256); the HW-path sequences are in Machine/Accelerator.lean. -/

namespace Sys2Proof.Machine

/-- RK[1..9], the round keys of the middle rounds, in order. -/
def middleKeys (rk : Schedule) : List RoundKey :=
  [rk.rk1, rk.rk2, rk.rk3, rk.rk4, rk.rk5, rk.rk6, rk.rk7, rk.rk8, rk.rk9]

/-- One middle round of EncryptBlock (R220). -/
def encryptMiddle (b : Block) (rk : RoundKey) : Block :=
  let b := subBytes b
  let b := shiftRows b
  let b := mixColumns b
  addRoundKey b rk

/-- EncryptBlock (R220): the initial AddRoundKey, rounds 1..9, then round 10 without MixColumns. -/
def encryptBlock (p : Block) (rk : Schedule) : Block :=
  let b := addRoundKey p rk.rk0
  let b := (middleKeys rk).foldl encryptMiddle b
  let b := shiftRows (subBytes b)
  addRoundKey b rk.rk10

/-- One turn of DecryptBlock's loop (R221). -/
def decryptMiddle (b : Block) (rk : RoundKey) : Block :=
  let b := addRoundKey b rk
  let b := invMixColumns b
  invSubBytes (invShiftRows b)

/-- DecryptBlock (R221): the exact reverse of EncryptBlock, with RK[9] down to RK[1] in the loop. -/
def decryptBlock (c : Block) (rk : Schedule) : Block :=
  let b := addRoundKey c rk.rk10
  let b := invSubBytes (invShiftRows b)
  let b := (middleKeys rk).reverse.foldl decryptMiddle b
  addRoundKey b rk.rk0

/-- ENCRYPT's rule (R230): LEN, then KEY_VALID, then STATE <- EncryptBlock(DIN, RK). -/
def encryptRule (len : Nat) (s : State) : Except ErrCode Writes := do
  operandLength len .invalidBlockLength
  requireSchedule s.keyValid
  stateRule (encryptBlock s.din s.rk)

/-- DECRYPT's rule (R231). -/
def decryptRule (len : Nat) (s : State) : Except ErrCode Writes := do
  operandLength len .invalidBlockLength
  requireSchedule s.keyValid
  stateRule (decryptBlock s.din s.rk)

/-- ENCRYPT (R230). -/
def execEncrypt (len : Nat) (s : State) : Host.Outcome State Fault Refusal := acceptRule (encryptRule len s) s

/-- DECRYPT (R231). -/
def execDecrypt (len : Nat) (s : State) : Host.Outcome State Fault Refusal := acceptRule (decryptRule len s) s

end Sys2Proof.Machine
end

