-- ==== Sys2Proof/Machine/Accelerator.lean ====
section
/-! DEFINITION. HardwareAccelerator (44_accelerator.md): the round primitives, their commands, and the HW-path sequences of
R254 and R255. The commands give the same result on either PATH (R256), so none of them reads it. -/

namespace Sys2Proof.Machine

/-- EncRound (R250). -/
def encRound (b : Block) (rk : RoundKey) : Block := addRoundKey (mixColumns (shiftRows (subBytes b))) rk

/-- EncLast (R251). -/
def encLast (b : Block) (rk : RoundKey) : Block := addRoundKey (shiftRows (subBytes b)) rk

/-- DecRound (R252). -/
def decRound (b : Block) (rk : RoundKey) : Block := invMixColumns (addRoundKey (invSubBytes (invShiftRows b)) rk)

/-- DecLast (R253). -/
def decLast (b : Block) (rk : RoundKey) : Block := addRoundKey (invSubBytes (invShiftRows b)) rk

/-- EncryptBlock_HW (R254). -/
def encryptBlockHw (p : Block) (rk : Schedule) : Block :=
  encLast ((middleKeys rk).foldl encRound (addRoundKey p rk.rk0)) rk.rk10

/-- DecryptBlock_HW (R255). -/
def decryptBlockHw (c : Block) (rk : Schedule) : Block :=
  decLast ((middleKeys rk).reverse.foldl decRound (addRoundKey c rk.rk10)) rk.rk0

/-- ENC_ROUND (R260). -/
def execEncRound (k : Nat) (s : State) : Host.Outcome State Fault Refusal := acceptRule (keyedRule encRound k s) s

/-- ENC_LAST (R261). -/
def execEncLast (k : Nat) (s : State) : Host.Outcome State Fault Refusal := acceptRule (keyedRule encLast k s) s

/-- DEC_ROUND (R262). -/
def execDecRound (k : Nat) (s : State) : Host.Outcome State Fault Refusal := acceptRule (keyedRule decRound k s) s

/-- DEC_LAST (R263). -/
def execDecLast (k : Nat) (s : State) : Host.Outcome State Fault Refusal := acceptRule (keyedRule decLast k s) s

end Sys2Proof.Machine
end

