-- ==== Sys2Proof/Machine/KeyExpansion.lean ====
section
/-! DEFINITION. KeyScheduler (41_key_expansion.md): the AES-128 key expansion and KEY_EXPAND. -/

namespace Sys2Proof.Machine

/-- RotWord (R160). -/
def rotWord (w : Word) : Word := ⟨w.a1, w.a2, w.a3, w.a0⟩

/-- SubWord (R161). -/
def subWord (w : Word) : Word := w.map sbox

/-- Word i of the expansion from word[i-4] and word[i-1] (R163). RCON is read at i div 4, which the expansion keeps in 1..10. -/
def nextWord (i : Nat) (back4 back1 : Word) : Word :=
  if i % 4 = 0 then
    back4.xor ((subWord (rotWord back1)).xor ⟨(rcon (i / 4)).getD 0, 0, 0, 0⟩)
  else back4.xor back1

/-- Words 0 .. n+3 of the expansion, the newest first (R162, R163). -/
def wordsUpTo (key : Block) : Nat → List Word
  | 0 => [key.c3, key.c2, key.c1, key.c0]
  | n + 1 =>
    let ws := wordsUpTo key n
    nextWord (n + 4) (ws.getD 3 Word.zero) (ws.getD 0 Word.zero) :: ws

/-- Words 0 .. 43, in order. -/
def expandedWords (key : Block) : List Word := (wordsUpTo key 40).reverse

/-- RK[r] = word[4r] ++ word[4r+1] ++ word[4r+2] ++ word[4r+3] (R164). -/
def roundKeyOf (ws : List Word) (r : Nat) : RoundKey :=
  ⟨ws.getD (4 * r) Word.zero, ws.getD (4 * r + 1) Word.zero, ws.getD (4 * r + 2) Word.zero,
    ws.getD (4 * r + 3) Word.zero⟩

/-- KeyExpansion (R165). -/
def keyExpansion (key : Block) : Schedule := Schedule.ofFn (roundKeyOf (expandedWords key))

/-- KEY_EXPAND's rule (R170): all 11 round keys together, and KEY_VALID <- 1. -/
def keyExpandRule (len : Nat) (s : State) : Except ErrCode Writes := do
  operandLength len .invalidKeyLength
  return { rk := some (keyExpansion s.key), keyValid := some true }

/-- KEY_EXPAND (R170). -/
def execKeyExpand (len : Nat) (s : State) : Host.Outcome State Fault Refusal := acceptRule (keyExpandRule len s) s

end Sys2Proof.Machine
end

