-- ==== Sys2Proof/Machine/Nop.lean ====
section
/-! DEFINITION. NOP (45_host_access.md R270). -/

namespace Sys2Proof.Machine

/-- NOP's rule (R270): no state write, ERR <- 0. -/
def nopRule : Except ErrCode Writes := .ok {}

/-- NOP (R270): accepted and completed like every command. -/
def execNop (s : State) : Host.Outcome State Fault Refusal := acceptRule nopRule s

end Sys2Proof.Machine
end

