-- ==== Sys2Proof/Machine/Dispatch.lean ====
section
/-! DEFINITION. One arm per command (30_encoding.md R93, R100). -/

namespace Sys2Proof.Machine

def exec (i : Instr) (s : State) : Host.Outcome State Fault Refusal :=
  match i with
  | .nop => Sys2Proof.Machine.execNop s
  | .keyExpand len => Sys2Proof.Machine.execKeyExpand len s
  | .encrypt len => Sys2Proof.Machine.execEncrypt len s
  | .decrypt len => Sys2Proof.Machine.execDecrypt len s
  | .loadState => Sys2Proof.Machine.execLoadState s
  | .subBytes => Sys2Proof.Machine.execSubBytes s
  | .invSubBytes => Sys2Proof.Machine.execInvSubBytes s
  | .shiftRows => Sys2Proof.Machine.execShiftRows s
  | .invShiftRows => Sys2Proof.Machine.execInvShiftRows s
  | .mixColumns => Sys2Proof.Machine.execMixColumns s
  | .invMixColumns => Sys2Proof.Machine.execInvMixColumns s
  | .addRoundKey k => Sys2Proof.Machine.execAddRoundKey k s
  | .encRound k => Sys2Proof.Machine.execEncRound k s
  | .encLast k => Sys2Proof.Machine.execEncLast k s
  | .decRound k => Sys2Proof.Machine.execDecRound k s
  | .decLast k => Sys2Proof.Machine.execDecLast k s
  | .lutSbox a => Sys2Proof.Machine.execLutSbox a s
  | .lutInvSbox a => Sys2Proof.Machine.execLutInvSbox a s
  | .lutRcon r => Sys2Proof.Machine.execLutRcon r s
  | .lutGfMul a b => Sys2Proof.Machine.execLutGfMul a b s

end Sys2Proof.Machine
end

