-- ==== Sys2Proof/Machine/HostAccess.lean ====
section
/-! DEFINITION. A command word accepted from CTRL, the host's operations, and which agent moves (45_host_access.md). -/

namespace Sys2Proof.Machine

/-- `accept command v` (R35, R100): the decoded command runs; an illegal word is accepted too and raises IllegalCommand
(R97). -/
def acceptWord (v : Reg32) (s : State) : Host.Outcome State Fault Refusal :=
  match Sys2Proof.decode v with
  | .command i => exec i s
  | .illegal _ => acceptRule (.error .illegalCommand) s

/-- `BusWrite` (R272): a CTRL write is a command, or is dropped under BUSY (R336); the other registers are `writeReg`. -/
def busWrite (r : WindowReg) (v : Reg32) (s : State) : Host.Outcome State Fault Refusal :=
  match r with
  | .ctrl => if s.busy then .next (dropWrite s) else acceptWord v s
  | .status => .next (writeReg .status v s)
  | .key n => .next (writeReg (.key n) v s)
  | .din n => .next (writeReg (.din n) v s)
  | .dout n => .next (writeReg (.dout n) v s)
  | .rksel => .next (writeReg .rksel v s)
  | .rkdata n => .next (writeReg (.rkdata n) v s)
  | .lut => .next (writeReg .lut v s)
  | .reserved => .next (writeReg .reserved v s)

/-- One operation of the host (R271 to R273) or of the reset input (R331). A poll that takes effect is the read of STATUS
that ends the loop (R102; log 9). -/
def hostOp (op : HostOp) (s : State) : Host.Outcome State Fault Refusal :=
  match op with
  | .read width addr =>
    match checkAccess ⟨.read, width, addr⟩ with
    | .error f => .fault f
    | .ok r => .next (busRead r s)
  | .write width addr v =>
    match checkAccess ⟨.write, width, addr⟩ with
    | .error f => .fault f
    | .ok r => busWrite r v s
  | .poll => .next (busRead .status s)
  | .reset => .next (applyReset s)

/-- Whether the next host operation waits for the core: a poll does, until BUSY = 0 (R102). -/
def HostOp.waits : HostOp → Bool
  | .poll => true
  | .read _ _ => false
  | .write _ _ _ => false
  | .reset => false

/-- The next event (R274). With BUSY = 0: the host's next operation, or nothing. With BUSY = 1: the completion step, once
the host has no operation, or polls, or the window's turns are used up; until then the host's next operation (log 4). -/
def turn (s : State) : Host.Outcome State Fault Refusal :=
  match s.host with
  | [] => .next (if s.busy then complete s else s)
  | op :: rest =>
    if s.busy then
      if op.waits || s.turns == 0 then .next (complete s)
      else hostOp op { s with host := rest, turns := s.turns - 1 }
    else hostOp op { s with host := rest }

/-- The command word placed as the host's next operation, with the core ready to accept it. -/
def placeCommand (v : Reg32) (s : State) : State :=
  { s with host := .write 32 (.window 0x00) v :: s.host, busy := false, pending := none, turns := 0 }

end Sys2Proof.Machine
end

