-- ==== Sys2Proof/Machine/Step.lean ====
section
/-! DEFINITION. One step of the machine, and how a command word comes to be the next one. -/

namespace Sys2Proof.Machine

/-- One event of the two agents (10_state.md R20, 45_host_access.md R274). -/
def step (s : State) : Host.Outcome State Fault Refusal := turn s

/-- The state whose next step accepts the command word `w` (its low `nbits` bits): the core has no program and no fetch
(20_memory.md R73); a command runs when the host writes it to CTRL with BUSY = 0 (R35). Log 3. -/
def State.withFetchWord (s : State) (nbits w : Nat) : State := placeCommand (BitVec.ofNat 32 (w % 2 ^ nbits)) s

end Sys2Proof.Machine
end

