-- ==== Sys2Proof/Safety.lean ====
section
/-! DEFINITION. The terms claims are stated in: the invariant of the core, the state after a command has completed, the end
of a run, a host that waits for completion, and what a step shows apart from key and data. -/

namespace Sys2Proof.Machine

/-- A PENDING Result as some command leaves it: an error names no state element except ERR (R36, R301), and the round keys
are written only by a successful KEY_EXPAND, all together and with KEY_VALID (R24, R170). -/
def Result.Proper (r : Result) : Prop :=
  (r.err ≠ .success → r.writes = {}) ∧
    ((r.writes.rk = none ∧ r.writes.keyValid = none) ∨
      (r.writes.keyValid = some true ∧ ∃ k, r.writes.rk = some (keyExpansion k)))

/-- The invariant of the core: BUSY = 1 exactly while PENDING holds a Result, and a proper one (R29, R32, R36); ERR is a code
of R300; RK holds an expanded schedule exactly when KEY_VALID = 1, and is still all zero before (R24, R25); PATH is as
latched at reset (R31). -/
def State.Inv (s : State) : Prop :=
  (s.busy = s.pending.isSome) ∧
    (∀ r, s.pending = some r → r.Proper) ∧
    (s.err.toNat ≤ 5) ∧
    (s.keyValid = true → ∃ k, s.rk = keyExpansion k) ∧
    (s.keyValid = false → s.rk = Schedule.zero) ∧
    (s.path = ExecPath.latched)

/-- The state once command `i` has been accepted in `s` and completed with no host operation between (R35, R36). -/
def committed (i : Instr) (s : State) : Option State :=
  match exec i s with
  | .next t => some (complete t)
  | .fault _ => none
  | .refused _ => none

/-- The end of a run (R340): the host has executed its last operation, and BUSY = 0. -/
def State.AtEnd (s : State) : Prop := s.host = [] ∧ s.busy = false

/-- Whether an operation writes CTRL, at offset 0 of the window. -/
def HostOp.writesCtrl : HostOp → Bool
  | .write _ addr _ => decide (addr.offset = some 0x00)
  | .read _ _ => false
  | .poll => false
  | .reset => false

/-- A sequence of host operations that keeps R334: after each CTRL write (or at the front, when `waiting`) comes a poll, or
nothing. -/
def polledOps (waiting : Bool) : List HostOp → Bool
  | [] => true
  | op :: rest => if waiting then op.waits && polledOps false rest else polledOps op.writesCtrl rest

/-- The host waits for completion before it does anything else (R334). -/
def State.Polled (s : State) : Prop := polledOps s.busy s.host = true

/-- A command word with the arguments of LUT_SBOX, LUT_INV_SBOX and LUT_GF_MUL taken out (R333). -/
def publicWord (v : Reg32) : Reg32 :=
  match Sys2Proof.decode v with
  | .command (.lutSbox _) => encode (.lutSbox 0)
  | .command (.lutInvSbox _) => encode (.lutInvSbox 0)
  | .command (.lutGfMul _ _) => encode (.lutGfMul 0 0)
  | _ => v

/-- A host operation with what it writes to KEY or DIN, and the arguments of a table lookup, taken out. -/
def HostOp.public : HostOp → HostOp
  | .write width addr v =>
    match checkAccess ⟨.write, width, addr⟩ with
    | .ok (.key _) => .write width addr 0
    | .ok (.din _) => .write width addr 0
    | .ok .ctrl => .write width addr (publicWord v)
    | _ => .write width addr v
  | .read width addr => .read width addr
  | .poll => .poll
  | .reset => .reset

/-- A Result with the data it writes taken out: which elements it names, and its code. -/
def Result.public (r : Result) : Result :=
  ⟨{ state := r.writes.state.map fun _ => Block.zero
     rk := r.writes.rk.map fun _ => Schedule.zero
     keyValid := r.writes.keyValid
     lut := r.writes.lut.map fun _ => 0 }, r.err⟩

/-- What of a state does not depend on key or data: everything but KEY, DIN, STATE, RK, LUT_RESULT, the data of PENDING, the
data of the host's KEY and DIN writes, lookup arguments, and the values (not the number) of the reads. -/
def State.public (s : State) : State :=
  { s with
    key := Block.zero
    din := Block.zero
    state := Block.zero
    rk := Schedule.zero
    lut := 0
    pending := s.pending.map Result.public
    host := s.host.map HostOp.public
    reads := s.reads.map fun _ => 0 }

/-- What of an outcome does not depend on key or data. -/
def publicOutcome : Host.Outcome State Fault Refusal → Host.Outcome State Fault Refusal
  | .next s => .next s.public
  | .fault f => .fault f
  | .refused r => .refused r

end Sys2Proof.Machine
end

