-- ==== Sys2Proof/Certificates/Slice0/Obligations.lean ====
section
/-! DEFINITION. The statements for the provers. Titles, texts and cited rules are in OBLIGATIONS.json. -/

open Sys2Proof Sys2Proof.Machine

/-! ## Reset -/

/-- R330: the reset table, as the state after reset, as the effect of the reset input in every state (which leaves only the
host's operations, what it has read and the model's draw counter, log 3 and log 5), and as the registers read. -/
def Obligations.ResetStateIsTheResetTable : Prop :=
  State.reset.key = Block.zero ∧ State.reset.din = Block.zero ∧ State.reset.state = Block.zero ∧
  State.reset.rk = Schedule.zero ∧ State.reset.keyValid = false ∧ State.reset.lut = 0 ∧ State.reset.rksel = 0 ∧
  State.reset.err = 0 ∧ State.reset.busy = false ∧ State.reset.wdrop = false ∧ State.reset.pending = none ∧
  State.reset.path = (if Config.hwAccelPresent then ExecPath.hw else ExecPath.sw) ∧
  (∀ s : State, hostOp .reset s =
    .next { State.reset with host := s.host, reads := s.reads, draws := s.draws }) ∧
  readValue .status State.reset = (if Config.hwAccelPresent then 4 else 0) ∧
  (∀ off < 256, off % 4 = 0 → off ≠ 0x04 → readValue (regAt off) State.reset = 0)

/-- R331: a reset in a busy window discards PENDING; whatever the command would have written, the state elements are those of
the reset table. `turns ≠ 0`: the completion step has not become the next event (log 4). -/
def Obligations.ResetAbortsThePendingCommand : Prop :=
  ∀ (s : State) (rest : List HostOp), s.busy = true → s.turns ≠ 0 → s.host = .reset :: rest →
    step s = .next { State.reset with host := rest, reads := s.reads, draws := s.draws }

/-- The invariant of Safety.lean holds after reset. -/
def Obligations.ResetStateMeetsTheCoreInvariant : Prop := State.reset.Inv

/-- From every state that meets the invariant, a step leads to a state that meets it. -/
def Obligations.EveryStepKeepsTheCoreInvariant : Prop :=
  ∀ s t : State, s.Inv → step s = .next t → t.Inv

/-! ## Decoding and running a command word -/

/-- Every well-formed command is read back from its word, with every operand at every value its field admits. -/
def Obligations.DecodeOfEncodeIsTheCommand : Prop :=
  ∀ i : Instr, i.wellFormed = true → decode (encode i) = .command i

/-- Every word that decodes to a command is the word of that command, and the command is well formed. -/
def Obligations.EncodeOfDecodeIsTheWord : Prop :=
  ∀ (v : Reg32) (i : Instr), decode v = .command i → encode i = v ∧ i.wellFormed = true

/-- R99: a word matches a command's row of the opcode table, `(v AND mask) = match` with `mask = fixedZero(fmt) OR 0x1F` and
`match = op`, exactly when it decodes to a command of that opcode. -/
def Obligations.DecodeFollowsMaskAndMatch : Prop :=
  ∀ (v : Reg32) (j : Instr),
    (v &&& (fixedZero (formatOf j) ||| 0x1F) = BitVec.ofNat 32 (opcode j)) ↔
      ∃ i, decode v = .command i ∧ opcode i = opcode j

/-- R97, R98: a word is illegal exactly when OP is in 0x14..0x1F or a bit its format requires to be 0 is 1. An illegal word
written to CTRL with BUSY = 0 is accepted: BUSY is 1, then the completion leaves ERR = 4 and every other state element as it
was. -/
def Obligations.IllegalWordsAreAcceptedAndRaiseIllegalCommand : Prop :=
  ∀ v : Reg32,
    ((∃ why, decode v = .illegal why) ↔
      0x14 ≤ opField v ∨ ∃ j, opcode j = opField v ∧ v &&& fixedZero (formatOf j) ≠ 0) ∧
    ((∃ why, decode v = .illegal why) →
      ∀ s : State, ∃ t, acceptWord v s = .next t ∧ t.busy = true ∧
        complete t = { s with err := 4, busy := false, pending := none, turns := 0, draws := s.draws + 1 })

/-- Words written out from the encodings of R92, R93 and the table of vector V11. -/
def Obligations.SampleWordsDecode : Prop :=
  decode 0x00000000 = .command .nop ∧ decode 0x00001001 = .command (.keyExpand 16) ∧
  decode 0x00000F02 = .command (.encrypt 15) ∧ decode 0x0000000A = .command .invMixColumns ∧
  decode 0x00000A0B = .command (.addRoundKey 10) ∧ decode 0x0000090E = .command (.decRound 9) ∧
  decode 0x0000ED11 = .command (.lutInvSbox 0xED) ∧ decode 0x00835713 = .command (.lutGfMul 0x57 0x83) ∧
  decode 0x00000014 = .illegal .reservedOpcode ∧ decode 0x0000100B = .illegal .mustBeZeroBitSet ∧
  decode 0x01001002 = .illegal .mustBeZeroBitSet

/-- A step at a CTRL write with BUSY = 0 runs the decoded command, on the state with the write taken from the host's
operations; an illegal word is accepted with IllegalCommand. -/
def Obligations.StepRunsTheDecodedCommand : Prop :=
  ∀ (s : State) (addr : BusAddr) (v : Reg32) (rest : List HostOp),
    s.busy = false → addr.offset = some 0x00 → s.host = .write 32 addr v :: rest →
    (∀ i, decode v = .command i → step s = exec i { s with host := rest }) ∧
    (∀ why, decode v = .illegal why →
      step s = .next { s with host := rest, pending := some ⟨{}, .illegalCommand⟩, busy := true, turns := Config.busyTurns s.draws, draws := s.draws + 1 })

/-- The word placed by `withFetchWord` is what the very next step runs. -/
def Obligations.FetchWordIsRunByTheNextStep : Prop :=
  ∀ (s : State) (w : Nat) (i : Instr), decodeTableWord 32 w = some i →
    step (s.withFetchWord 32 w) = exec i { s with busy := false, pending := none, turns := 0 }

/-- R308: what a command word leads to is a function of the word and the snapshot alone: two states that agree on KEY, DIN,
STATE, RK and KEY_VALID accept it with the same Result, whatever else they hold (PATH among it). -/
def Obligations.ResultDependsOnlyOnWordAndSnapshot : Prop :=
  ∀ (v : Reg32) (s s' : State),
    s'.key = s.key → s'.din = s.din → s'.state = s.state → s'.rk = s.rk → s'.keyValid = s.keyValid →
    ∃ r : Result,
      acceptWord v s = .next { s with pending := some r, busy := true, turns := Config.busyTurns s.draws, draws := s.draws + 1 } ∧
      acceptWord v s' = .next { s' with pending := some r, busy := true, turns := Config.busyTurns s'.draws, draws := s'.draws + 1 }

/-! ## Completion -/

/-- The completion step writes every state element PENDING names, ERR, and BUSY <- 0, and nothing else; it is the next event
when the host has no operation, or polls, or the window's turns are used up (log 4, log 9). -/
def Obligations.CompletionCommitsPending : Prop :=
  ∀ (s : State) (r : Result), s.busy = true → s.pending = some r →
    (s.host = [] ∨ s.turns = 0 ∨ ∃ rest, s.host = .poll :: rest) →
    step s = .next { s with
      state := r.writes.state.getD s.state, rk := r.writes.rk.getD s.rk
      keyValid := r.writes.keyValid.getD s.keyValid, lut := r.writes.lut.getD s.lut
      err := r.err.code, busy := false, pending := none, turns := 0 }

/-- Whose turn it is: with BUSY = 0 the host's next operation happens; with BUSY = 1 it does too, if it is not a poll and the
window has turns left (log 4). -/
def Obligations.HostOperationsAreServedInOrder : Prop :=
  ∀ (s : State) (op : HostOp) (rest : List HostOp), s.host = op :: rest →
    (s.busy = false → step s = hostOp op { s with host := rest }) ∧
    (∀ n, s.busy = true → op ≠ .poll → s.turns = n + 1 → step s = hostOp op { s with host := rest, turns := n })

/-- Every busy window ends: with no refused access among the host's operations, BUSY is 0 again after at most
`turns + 1` steps (log 4). -/
def Obligations.EveryBusyWindowEnds : Prop :=
  ∀ s : State,
    (∀ w a, HostOp.read w a ∈ s.host → ∃ r, checkAccess ⟨.read, w, a⟩ = .ok r) →
    (∀ w a v, HostOp.write w a v ∈ s.host → ∃ r, checkAccess ⟨.write, w, a⟩ = .ok r) →
    ∃ n t, n ≤ s.turns + 1 ∧ core.run n s = .next t ∧ t.busy = false

/-- With the host idle and BUSY = 0, nothing changes. -/
def Obligations.IdleCoreHoldsItsState : Prop := ∀ s : State, s.AtEnd → step s = .next s

/-! ## Errors -/

/-- R301: a command that raises an error changes nothing but ERR once it has completed. -/
def Obligations.ErrorChangesOnlyErr : Prop :=
  ∀ (v : Reg32) (s t : State) (r : Result),
    acceptWord v s = .next t → t.pending = some r → r.err ≠ .success →
    complete t = { s with err := r.err.code, busy := false, pending := none, turns := 0, draws := s.draws + 1 }

/-- R300, R302: ERR after the completion of every command word, with the first failing check reported: illegal word, LEN,
argument, KEY_VALID; 0 if none fails. -/
def Obligations.ErrReportsTheFirstFailingCheck : Prop :=
  ∀ (v : Reg32) (s : State), ∃ t, acceptWord v s = .next t ∧
    (complete t).err =
      match decode v with
      | .illegal _ => 4
      | .command i =>
        match i with
        | .keyExpand len => if len ≠ 16 then 1 else 0
        | .encrypt len | .decrypt len => if len ≠ 16 then 2 else if s.keyValid = false then 3 else 0
        | .addRoundKey k | .encRound k | .encLast k | .decRound k | .decLast k =>
          if 10 < k then 5 else if s.keyValid = false then 3 else 0
        | .lutRcon a => if a = 0 ∨ 10 < a.toNat then 5 else 0
        | .nop | .loadState | .subBytes | .invSubBytes | .shiftRows | .invShiftRows | .mixColumns | .invMixColumns
        | .lutSbox _ | .lutInvSbox _ | .lutGfMul _ _ => 0

/-! ## Each command runs: the state it leaves, every other element as before -/

/-- NOP is accepted in every state and, completed, changes nothing but ERR <- 0. -/
def Obligations.NopClearsErrOnly : Prop :=
  ∀ s : State, ∃ t, exec .nop s = .next t ∧ t.busy = true ∧
    complete t = { s with err := 0, busy := false, pending := none, turns := 0, draws := s.draws + 1 }

/-- KEY_EXPAND 16 writes all of RK with the expansion of KEY, KEY_VALID <- 1 and ERR <- 0; any other LEN raises
InvalidKeyLength and leaves RK and KEY_VALID. -/
def Obligations.KeyExpandWritesTheScheduleOfKey : Prop :=
  ∀ s : State,
    (∃ t, exec (.keyExpand 16) s = .next t ∧ t.busy = true ∧
      complete t = { s with rk := keyExpansion s.key, keyValid := true, err := 0, busy := false, pending := none, turns := 0, draws := s.draws + 1 }) ∧
    (∀ len, len ≠ 16 → ∃ t, exec (.keyExpand len) s = .next t ∧ t.busy = true ∧
      complete t = { s with err := 1, busy := false, pending := none, turns := 0, draws := s.draws + 1 })

/-- ENCRYPT 16 and DECRYPT 16 with KEY_VALID = 1 leave EncryptBlock(DIN, RK) and DecryptBlock(DIN, RK) in STATE. -/
def Obligations.EncryptAndDecryptWriteTheirBlockToState : Prop :=
  ∀ s : State, s.keyValid = true →
    (∃ t, exec (.encrypt 16) s = .next t ∧ t.busy = true ∧
      complete t = { s with state := encryptBlock s.din s.rk, err := 0, busy := false, pending := none, turns := 0, draws := s.draws + 1 }) ∧
    (∃ t, exec (.decrypt 16) s = .next t ∧ t.busy = true ∧
      complete t = { s with state := decryptBlock s.din s.rk, err := 0, busy := false, pending := none, turns := 0, draws := s.draws + 1 })

/-- The format N commands LOAD_STATE and the six transforms complete in every state, on the STATE (or DIN) of the snapshot. -/
def Obligations.TransformCommandsWriteState : Prop :=
  ∀ (s : State) (i : Instr) (b : Block),
    ((i = .loadState ∧ b = s.din) ∨ (i = .subBytes ∧ b = subBytes s.state) ∨ (i = .invSubBytes ∧ b = invSubBytes s.state) ∨
      (i = .shiftRows ∧ b = shiftRows s.state) ∨ (i = .invShiftRows ∧ b = invShiftRows s.state) ∨
      (i = .mixColumns ∧ b = mixColumns s.state) ∨ (i = .invMixColumns ∧ b = invMixColumns s.state)) →
    ∃ t, exec i s = .next t ∧ t.busy = true ∧
      complete t = { s with state := b, err := 0, busy := false, pending := none, turns := 0, draws := s.draws + 1 }

/-- The five format K commands complete for every round key RK[k], k in 0..10, when KEY_VALID = 1. -/
def Obligations.KeyedCommandsWriteState : Prop :=
  ∀ (s : State) (k : Nat) (rk : RoundKey) (i : Instr) (b : Block),
    s.keyValid = true → s.rk.roundKey k = some rk →
    ((i = .addRoundKey k ∧ b = addRoundKey s.state rk) ∨
      (i = .encRound k ∧ b = addRoundKey (mixColumns (shiftRows (subBytes s.state))) rk) ∨
      (i = .encLast k ∧ b = addRoundKey (shiftRows (subBytes s.state)) rk) ∨
      (i = .decRound k ∧ b = invMixColumns (addRoundKey (invSubBytes (invShiftRows s.state)) rk)) ∨
      (i = .decLast k ∧ b = addRoundKey (invSubBytes (invShiftRows s.state)) rk)) →
    ∃ t, exec i s = .next t ∧ t.busy = true ∧
      complete t = { s with state := b, err := 0, busy := false, pending := none, turns := 0, draws := s.draws + 1 }

/-- The table lookups complete in every state, KEY_VALID or not, and leave their value in LUT_RESULT. -/
def Obligations.LookupCommandsWriteLutResult : Prop :=
  ∀ (s : State) (i : Instr) (v : Byte),
    ((∃ a, i = .lutSbox a ∧ v = sbox a) ∨ (∃ a, i = .lutInvSbox a ∧ v = invSbox a) ∨
      (∃ r : Byte, i = .lutRcon r ∧ rcon r.toNat = some v) ∨ (∃ a b, i = .lutGfMul a b ∧ v = gfMul a b)) →
    ∃ t, exec i s = .next t ∧ t.busy = true ∧
      complete t = { s with lut := v, err := 0, busy := false, pending := none, turns := 0, draws := s.draws + 1 }

/-- The frame of every command, error or not: none writes KEY, DIN, RKSEL, WDROP or PATH; the cipher, transform and round
commands write only STATE, KEY_EXPAND only RK and KEY_VALID, the lookups only LUT_RESULT, NOP nothing (ERR apart). Until the
completion nothing of it shows: acceptance changes only PENDING and BUSY. -/
def Obligations.CommandsWriteOnlyTheirOwnState : Prop :=
  ∀ (i : Instr) (s t : State), exec i s = .next t →
    (∃ r, t = { s with pending := some r, busy := true, turns := t.turns, draws := t.draws }) ∧
    (complete t).key = s.key ∧ (complete t).din = s.din ∧ (complete t).rksel = s.rksel ∧
    (complete t).wdrop = s.wdrop ∧ (complete t).path = s.path ∧ (complete t).host = s.host ∧
    (complete t).reads = s.reads ∧
    ((complete t).state ≠ s.state → i = .loadState ∨ i = .subBytes ∨ i = .invSubBytes ∨ i = .shiftRows ∨
      i = .invShiftRows ∨ i = .mixColumns ∨ i = .invMixColumns ∨ i = .encrypt 16 ∨ i = .decrypt 16 ∨
      ∃ k ≤ 10, i = .addRoundKey k ∨ i = .encRound k ∨ i = .encLast k ∨ i = .decRound k ∨ i = .decLast k) ∧
    ((complete t).rk ≠ s.rk ∨ (complete t).keyValid ≠ s.keyValid → i = .keyExpand 16) ∧
    ((complete t).lut ≠ s.lut → (∃ a, i = .lutSbox a) ∨ (∃ a, i = .lutInvSbox a) ∨
      (∃ r : Byte, 1 ≤ r.toNat ∧ r.toNat ≤ 10 ∧ i = .lutRcon r) ∨ ∃ a b, i = .lutGfMul a b)

/-! ## The functions -/

/-- R121: gf_mul is the carry-less product modulo 0x11B, as Euclidean division says it: the product is a multiple of 0x11B
plus the result, which has degree below 8. It is commutative, with 0 and 1 as zero and unit. -/
def Obligations.GfMulIsTheProductModulo0x11B : Prop :=
  (∀ a b : Byte, ∃ q : BitVec 16,
    carrylessMul (a.setWidth 16) (b.setWidth 16) = carrylessMul q 0x11B ^^^ (gfMul a b).setWidth 16 ∧ q.toNat < 128) ∧
  (∀ a b : Byte, gfMul a b = gfMul b a) ∧ (∀ a : Byte, gfMul a 0 = 0) ∧ (∀ a : Byte, gfMul a 1 = a)

/-- R126 with R124: the printed S-box is the affine transform of the inverse in GF(2^8), with inv(0) = 0. -/
def Obligations.SboxIsTheAffineTransformOfTheInverse : Prop :=
  (∀ a : Byte, a ≠ 0 → ∃ t, gfMul a t = 1 ∧ ∀ t', gfMul a t' = 1 → t' = t) ∧
  (∀ a t : Byte, (a = 0 ∧ t = 0) ∨ gfMul a t = 1 →
    sbox a = t ^^^ t.rotateLeft 1 ^^^ t.rotateLeft 2 ^^^ t.rotateLeft 3 ^^^ t.rotateLeft 4 ^^^ 0x63)

/-- R128, and the defining words of R127 (whose printed table contradicts them, log 1): SBOX and INV_SBOX are bijections,
inverse to each other; SBOX has no fixed point and no opposite fixed point. -/
def Obligations.SboxAndInvSboxAreInverseBijections : Prop :=
  (∀ a : Byte, invSbox (sbox a) = a ∧ sbox (invSbox a) = a) ∧
  (∀ a : Byte, sbox a ≠ a ∧ sbox a ≠ a ^^^ 0xFF)

/-- R129: RCON[1] = 0x01 and RCON[i+1] = xtime(RCON[i]) up to 10; no value outside 1..10. -/
def Obligations.RconIsTheSuccessivePowersOfX : Prop :=
  rcon 1 = some 0x01 ∧ (∀ i, 1 ≤ i → i ≤ 9 → ∃ c, rcon i = some c ∧ rcon (i + 1) = some (gfMul c 2)) ∧
  (∀ i, rcon i = none ↔ i = 0 ∨ 10 < i) ∧
  rcon 8 = some 0x80 ∧ rcon 9 = some 0x1B ∧ rcon 10 = some 0x36

/-- R160, R161: RotWord moves the first byte to the last place; SubWord is sbox on each byte. -/
def Obligations.RotWordAndSubWordActOnTheFourBytes : Prop :=
  (∀ a0 a1 a2 a3 : Byte, rotWord ⟨a0, a1, a2, a3⟩ = ⟨a1, a2, a3, a0⟩) ∧
  (∀ (w : Word) (k : Fin 4), (subWord w).byte k = sbox (w.byte k))

/-- R162, R163, R164: the 44 words of the expansion and the round keys they make. -/
def Obligations.KeyExpansionFollowsTheRecurrence : Prop :=
  ∀ key : Block, ∃ w : Nat → Word,
    (∀ i : Fin 4, w i = key.col i) ∧
    (∀ i, 4 ≤ i → i ≤ 43 → i % 4 = 0 → ∃ c, rcon (i / 4) = some c ∧
      w i = (w (i - 4)).xor ((subWord (rotWord (w (i - 1)))).xor ⟨c, 0x00, 0x00, 0x00⟩)) ∧
    (∀ i, 4 ≤ i → i ≤ 43 → i % 4 ≠ 0 → w i = (w (i - 4)).xor (w (i - 1))) ∧
    (∀ r ≤ 10, (keyExpansion key).roundKey r = some ⟨w (4 * r), w (4 * r + 1), w (4 * r + 2), w (4 * r + 3)⟩)

/-- R166: ExpandedKey[0] is the master key. -/
def Obligations.RoundKeyZeroIsTheMasterKey : Prop := ∀ key : Block, (keyExpansion key).roundKey 0 = some key

/-- R180, R181, R190: SubBytes, InvSubBytes and AddRoundKey byte by byte. -/
def Obligations.SubBytesAndAddRoundKeyActBytewise : Prop :=
  ∀ (s rk : Block) (i : Fin 16),
    (subBytes s).byte i = sbox (s.byte i) ∧ (invSubBytes s).byte i = invSbox (s.byte i) ∧
    (addRoundKey s rk).byte i = s.byte i ^^^ rk.byte i ∧ addRoundKey (addRoundKey s rk) rk = s

/-- R182, R183: ShiftRows and InvShiftRows on the matrix and as the byte permutations P_SR and P_ISR. -/
def Obligations.ShiftRowsMovesTheBytesOfEachRow : Prop :=
  ∀ s : Block,
    (∀ r c : Fin 4, (shiftRows s).entry r c = s.entry r (c + r) ∧ (invShiftRows s).entry r c = s.entry r (c - r)) ∧
    (∀ i : Fin 16,
      (shiftRows s).byte i = s.byte (#v[0, 5, 10, 15, 4, 9, 14, 3, 8, 13, 2, 7, 12, 1, 6, 11] : Vector (Fin 16) 16)[i] ∧
      (invShiftRows s).byte i = s.byte (#v[0, 13, 10, 7, 4, 1, 14, 11, 8, 5, 2, 15, 12, 9, 6, 3] : Vector (Fin 16) 16)[i])

/-- R184, R185: entry (r, c) is the XOR over k in 0..3 of gf_mul of the coefficient in row r, place k, and entry (k, c). -/
def Obligations.MixColumnsMultipliesEachColumnByTheMatrix : Prop :=
  ∀ (s : Block) (c : Fin 4),
    let sum (x0 x1 x2 x3 : Byte) : Byte :=
      gfMul x0 (s.entry 0 c) ^^^ gfMul x1 (s.entry 1 c) ^^^ gfMul x2 (s.entry 2 c) ^^^ gfMul x3 (s.entry 3 c)
    ((mixColumns s).entry 0 c = sum 2 3 1 1 ∧ (mixColumns s).entry 1 c = sum 1 2 3 1 ∧
      (mixColumns s).entry 2 c = sum 1 1 2 3 ∧ (mixColumns s).entry 3 c = sum 3 1 1 2) ∧
    ((invMixColumns s).entry 0 c = sum 14 11 13 9 ∧ (invMixColumns s).entry 1 c = sum 9 14 11 13 ∧
      (invMixColumns s).entry 2 c = sum 13 9 14 11 ∧ (invMixColumns s).entry 3 c = sum 11 13 9 14)

/-- R191: each transform's inverse undoes it, and is undone by it, so each is a bijection on blocks. -/
def Obligations.EachTransformIsUndoneByItsInverse : Prop :=
  ∀ s rk : Block,
    invSubBytes (subBytes s) = s ∧ subBytes (invSubBytes s) = s ∧
    invShiftRows (shiftRows s) = s ∧ shiftRows (invShiftRows s) = s ∧
    invMixColumns (mixColumns s) = s ∧ mixColumns (invMixColumns s) = s ∧
    addRoundKey (addRoundKey s rk) rk = s

/-- R222: decryption undoes encryption, and encryption decryption, for every block and every schedule. -/
def Obligations.DecryptBlockInvertsEncryptBlock : Prop :=
  ∀ (p : Block) (rk : Schedule),
    decryptBlock (encryptBlock p rk) rk = p ∧ encryptBlock (decryptBlock p rk) rk = p

/-- R223: the known-answer vector of the document. -/
def Obligations.KnownAnswerVectorHolds : Prop :=
  let key : Block := ⟨unpack 0x2B7E1516, unpack 0x28AED2A6, unpack 0xABF71588, unpack 0x09CF4F3C⟩
  encryptBlock ⟨unpack 0x3243F6A8, unpack 0x885A308D, unpack 0x313198A2, unpack 0xE0370734⟩ (keyExpansion key) =
    ⟨unpack 0x3925841D, unpack 0x02DC09FB, unpack 0xDC118597, unpack 0x196A0B32⟩

/-- R254, R255: the HW-path sequences compute what CipherDriver computes, for every input. -/
def Obligations.HardwarePathEqualsSoftwarePath : Prop :=
  ∀ (b : Block) (rk : Schedule),
    encryptBlockHw b rk = encryptBlock b rk ∧ decryptBlockHw b rk = decryptBlock b rk

/-- The round trip on the machine: with KEY_VALID = 1, ENCRYPT, then DECRYPT of the STATE it left (put in DIN by the host),
leaves the first DIN in STATE. -/
def Obligations.DecryptCommandRestoresTheEncryptedBlock : Prop :=
  ∀ s : State, s.keyValid = true →
    ∃ t u, committed (.encrypt 16) s = some t ∧ committed (.decrypt 16) { t with din := t.state } = some u ∧
      u.state = s.din ∧ u.err = 0 ∧ u.rk = s.rk ∧ u.keyValid = true

/-! ## The register window -/

/-- R61: packing is big-endian within the word, and unpacking undoes it; register n of a 16-byte quantity X holds
pack(X[4n], X[4n+1], X[4n+2], X[4n+3]). -/
def Obligations.PackIsBigEndian : Prop :=
  (∀ b0 b1 b2 b3 : Byte,
    (pack ⟨b0, b1, b2, b3⟩).toNat = b0.toNat * 2 ^ 24 + b1.toNat * 2 ^ 16 + b2.toNat * 2 ^ 8 + b3.toNat) ∧
  (∀ w : Word, unpack (pack w) = w) ∧ (∀ v : Reg32, pack (unpack v) = v) ∧
  (∀ (b : Block) (n : Fin 4), b.col n =
    ⟨b.byte ⟨4 * n, by omega⟩, b.byte ⟨4 * n + 1, by omega⟩, b.byte ⟨4 * n + 2, by omega⟩, b.byte ⟨4 * n + 3, by omega⟩⟩) ∧
  (∀ (s : State) (n : Fin 4),
    readValue (.key n) s = pack (s.key.col n) ∧ readValue (.din n) s = pack (s.din.col n) ∧
    (s.busy = false → readValue (.dout n) s = pack (s.state.col n) ∧
      ∀ k, s.rk.roundKey s.rksel.toNat = some k → readValue (.rkdata n) s = pack (k.col n)))

/-- The register map as read with BUSY = 0, and the registers that read exactly in the busy window (KEY, DIN, RKSEL, CTRL and
the reserved offsets). -/
def Obligations.WindowReadsFollowTheRegisterMap : Prop :=
  ∀ s : State,
    readValue (regAt 0x00) s = 0 ∧
    (∀ n : Fin 4, readValue (regAt (0x10 + 4 * n)) s = pack (s.key.col n) ∧
      readValue (regAt (0x20 + 4 * n)) s = pack (s.din.col n)) ∧
    readValue (regAt 0x40) s = s.rksel.setWidth 32 ∧
    (∀ off, off = 0x08 ∨ off = 0x0C ∨ (0x58 ≤ off ∧ off ≤ 0xFC) → readValue (regAt off) s = 0) ∧
    (s.busy = false →
      (∀ n : Fin 4, readValue (regAt (0x30 + 4 * n)) s = pack (s.state.col n) ∧
        (∀ k, s.rk.roundKey s.rksel.toNat = some k → readValue (regAt (0x44 + 4 * n)) s = pack (k.col n)) ∧
        (10 < s.rksel.toNat → readValue (regAt (0x44 + 4 * n)) s = 0)) ∧
      readValue (regAt 0x54) s = s.lut.setWidth 32)

/-- R38: every field of a STATUS read: BUSY, HWACC, WDROP and the reserved bits at all times, KEY_VALID and ERR with BUSY = 0;
with BUSY = 1 those two are free draws (log 5). A write changes nothing of it but WDROP. After reset it reads
HW_ACCEL_PRESENT << 2. -/
def Obligations.StatusShowsItsFields : Prop :=
  (∀ s : State,
    let v := readValue (regAt 0x04) s
    (v.getLsbD 0 = s.busy) ∧ (v.getLsbD 2 = decide (s.path = .hw)) ∧ (v.getLsbD 3 = s.wdrop) ∧
    v.extractLsb' 4 4 = 0 ∧ v.extractLsb' 12 20 = 0 ∧
    (s.busy = false → v.getLsbD 1 = s.keyValid ∧ v.extractLsb' 8 4 = s.err) ∧
    (s.busy = true → v.extractLsb' 1 1 = Config.freeKeyValid s.draws ∧ v.extractLsb' 8 4 = Config.freeErr s.draws)) ∧
  (∀ (v : Reg32) (s : State), busWrite (regAt 0x04) v s = .next { s with wdrop := s.wdrop && !v.getLsbD 3 }) ∧
  readValue (regAt 0x04) State.reset = (if Config.hwAccelPresent then 1 else 0) <<< 2

/-- With BUSY = 1 a read of DOUT, RKDATA or LUT gives the host a free value, drawn anew for each read (log 5). -/
def Obligations.BusyReadsAreFreeDraws : Prop :=
  ∀ (s : State) (r : WindowReg), s.busy = true → r = .lut ∨ (∃ n, r = .dout n ∨ r = .rkdata n) →
    busRead r s = { s with reads := Config.freeWord s.draws :: s.reads, draws := s.draws + 1 }

/-- A read changes no state element of the core: only what the host has read, and the model's draw counter, which moves by one
when BUSY = 1 and the register is one of those that draw (STATUS, DOUT, RKDATA, LUT) and stays otherwise (log 5). So a register
reads the same after it, but for one that is, or holds, a free draw while BUSY = 1. -/
def Obligations.ReadsHaveNoSideEffect : Prop :=
  ∀ (s : State) (r r' : WindowReg),
    busRead r s =
      { s with
        reads := readValue r s :: s.reads
        draws := if s.busy && r.drawsWhenBusy then s.draws + 1 else s.draws } ∧
    (r.drawsWhenBusy = true ↔ r = .status ∨ r = .lut ∨ ∃ n, r = .dout n ∨ r = .rkdata n) ∧
    (s.busy = false → (busRead r s).draws = s.draws) ∧
    (s.busy = false ∨ r' = .ctrl ∨ r' = .rksel ∨ r' = .reserved ∨ (∃ n, r' = .key n ∨ r' = .din n) →
      readValue r' (busRead r s) = readValue r' s)

/-- R336: with BUSY = 1 a write to CTRL, KEY, DIN or RKSEL is dropped and sets WDROP; a STATUS write never is; writes to
read-only and reserved registers change nothing at any time. -/
def Obligations.BusyWritesAreDroppedAndSetWdrop : Prop :=
  ∀ (s : State) (v : Reg32),
    (∀ r : WindowReg, s.busy = true → r = .ctrl ∨ r = .rksel ∨ (∃ n, r = .key n ∨ r = .din n) →
      busWrite r v s = .next { s with wdrop := true }) ∧
    busWrite .status v s = .next { s with wdrop := s.wdrop && !v.getLsbD 3 } ∧
    (∀ r : WindowReg, r = .lut ∨ r = .reserved ∨ (∃ n, r = .dout n ∨ r = .rkdata n) → busWrite r v s = .next s)

/-- R40, R41: with BUSY = 0 a write to KEYn or DINn sets that word and no other; a read returns it, whatever BUSY is. -/
def Obligations.KeyAndDinReadBackWhatWasWritten : Prop :=
  ∀ (s : State) (n : Fin 4) (v : Reg32),
    (s.busy = false →
      (∃ t, busWrite (regAt (0x10 + 4 * n)) v s = .next t ∧ t = { s with key := t.key } ∧
        ∀ m : Fin 4, t.key.col m = if m = n then unpack v else s.key.col m) ∧
      (∃ t, busWrite (regAt (0x20 + 4 * n)) v s = .next t ∧ t = { s with din := t.din } ∧
        ∀ m : Fin 4, t.din.col m = if m = n then unpack v else s.din.col m)) ∧
    readValue (regAt (0x10 + 4 * n)) s = pack (s.key.col n) ∧ readValue (regAt (0x20 + 4 * n)) s = pack (s.din.col n) ∧
    (unpack v = s.key.col n → readValue (regAt (0x10 + 4 * n)) s = v) ∧
    (unpack v = s.din.col n → readValue (regAt (0x20 + 4 * n)) s = v)

/-- R43 with BUSY = 0: RKSEL keeps bits [3:0] of what is written, and RKDATA then shows that round key, 0 for 11..15. With
BUSY = 1 a read of RKDATAn is a free draw. Writes to RKDATA are ignored. -/
def Obligations.RkselSelectsTheRoundKeyShown : Prop :=
  (∀ (s : State) (v : Reg32), s.busy = false →
    ∃ t, busWrite (regAt 0x40) v s = .next t ∧ t = { s with rksel := t.rksel } ∧ t.rksel.toNat = v.toNat % 16 ∧
      (readValue (regAt 0x40) t).toNat = v.toNat % 16 ∧
      ∀ n : Fin 4, readValue (regAt (0x44 + 4 * n)) t =
        match s.rk.roundKey (v.toNat % 16) with
        | some k => pack (k.col n)
        | none => 0) ∧
  (∀ (rk : Schedule) (k : Nat), rk.roundKey k = none ↔ 10 < k) ∧
  (∀ s : State, readValue (regAt 0x40) s = s.rksel.setWidth 32) ∧
  (∀ (s : State) (n : Fin 4), s.busy = true → readValue (regAt (0x44 + 4 * n)) s = Config.freeWord s.draws) ∧
  (∀ (s : State) (n : Fin 4) (v : Reg32), busWrite (regAt (0x44 + 4 * n)) v s = .next s)

/-- R44: the reserved offsets read 0 and ignore writes, at any time. -/
def Obligations.ReservedOffsetsReadZeroAndIgnoreWrites : Prop :=
  ∀ (s : State) (v : Reg32) (off : Nat), off = 0x08 ∨ off = 0x0C ∨ (0x58 ≤ off ∧ off ≤ 0xFC) →
    readValue (regAt off) s = 0 ∧ busWrite (regAt off) v s = .next s

/-- R273: an access that is not 32 bits wide, or not 4-byte aligned, or outside the window, is refused with a fault naming
it; an aligned 32-bit access in the window is not: it is the read, or the write, of the register at its offset. -/
def Obligations.UnsupportedAccessesFault : Prop :=
  (∀ (s : State) (w : Nat) (addr : BusAddr) (v : Reg32),
    (w ≠ 32 ∨ addr.offset = none ∨ ∃ off, addr.offset = some off ∧ (off % 4 ≠ 0 ∨ 0x100 ≤ off)) →
    (∃ f, hostOp (.read w addr) s = .fault f ∧
      (f = .unsupportedWidth ⟨.read, w, addr⟩ ∨ f = .misaligned ⟨.read, w, addr⟩ ∨ f = .outsideWindow ⟨.read, w, addr⟩)) ∧
    (∃ f, hostOp (.write w addr v) s = .fault f ∧
      (f = .unsupportedWidth ⟨.write, w, addr⟩ ∨ f = .misaligned ⟨.write, w, addr⟩ ∨ f = .outsideWindow ⟨.write, w, addr⟩))) ∧
  (∀ (kind : AccessKind) (addr : BusAddr) (off : Nat), addr.offset = some off → off % 4 = 0 → off < 0x100 →
    checkAccess ⟨kind, 32, addr⟩ = .ok (regAt off)) ∧
  (∀ (s : State) (addr : BusAddr) (off : Nat) (v : Reg32), addr.offset = some off → off % 4 = 0 → off < 0x100 →
    hostOp (.read 32 addr) s = .next (busRead (regAt off) s) ∧
    hostOp (.write 32 addr v) s = busWrite (regAt off) v s)

/-- An access at bus address BASE + off is the access at offset off; one below BASE, or 256 or more above it, is outside the
window; BASE is 256-byte aligned (log 7). -/
def Obligations.BusAddressesReachTheWindowAtBase : Prop :=
  Config.base % 256 = 0 ∧
  (∀ off, (BusAddr.absolute (Config.base + off)).offset = (BusAddr.window off).offset) ∧
  (∀ (kind : AccessKind) (a : Nat), a < Config.base ∨ Config.base + 256 ≤ a →
    checkAccess ⟨kind, 32, .absolute a⟩ = .error (.outsideWindow ⟨kind, 32, .absolute a⟩))

/-! ## Rules of the whole machine -/

/-- KEY and DIN change only by a host write to one of their words with BUSY = 0, or by reset: no command writes them. -/
def Obligations.OnlyHostWritesChangeKeyAndDin : Prop :=
  ∀ s t : State, step s = .next t →
    (t.key ≠ s.key → (s.host.head? = some .reset) ∨
      ∃ w a v n, s.host.head? = some (.write w a v) ∧ checkAccess ⟨.write, w, a⟩ = .ok (.key n) ∧ s.busy = false ∧
        t.key = s.key.setCol n (unpack v)) ∧
    (t.din ≠ s.din → (s.host.head? = some .reset) ∨
      ∃ w a v n, s.host.head? = some (.write w a v) ∧ checkAccess ⟨.write, w, a⟩ = .ok (.din n) ∧ s.busy = false ∧
        t.din = s.din.setCol n (unpack v))

/-- RK, KEY_VALID, STATE, LUT_RESULT and ERR change only when PENDING completes, to what it names (ERR to its code), or by
reset; and KEY_VALID, once 1, is cleared by nothing but reset (in states that meet the invariant). -/
def Obligations.OnlyCompletionChangesTheResults : Prop :=
  ∀ s t : State, step s = .next t →
    ((t.rk ≠ s.rk ∨ t.keyValid ≠ s.keyValid ∨ t.state ≠ s.state ∨ t.lut ≠ s.lut ∨ t.err ≠ s.err) →
      s.host.head? = some .reset ∨
      ∃ r, s.busy = true ∧ t.busy = false ∧ s.pending = some r ∧ t.rk = r.writes.rk.getD s.rk ∧
        t.keyValid = r.writes.keyValid.getD s.keyValid ∧ t.state = r.writes.state.getD s.state ∧
        t.lut = r.writes.lut.getD s.lut ∧ t.err = r.err.code) ∧
    (s.Inv → s.keyValid = true → t.keyValid = false → s.host.head? = some .reset)

/-- R30: a dropped write sets WDROP, a STATUS write with bit 3 = 1 clears it whatever BUSY is, reset clears it, and nothing
else changes it. -/
def Obligations.OnlyDroppedWritesAndClearsChangeWdrop : Prop :=
  (∀ s t : State, step s = .next t → t.wdrop ≠ s.wdrop →
    (t.wdrop = false ∧ s.host.head? = some .reset) ∨
    ∃ w a v r, s.host.head? = some (.write w a v) ∧ checkAccess ⟨.write, w, a⟩ = .ok r ∧
      ((t.wdrop = true ∧ s.busy = true ∧ (r = .ctrl ∨ r = .rksel ∨ ∃ n, r = .key n ∨ r = .din n)) ∨
        (t.wdrop = false ∧ r = .status ∧ v.getLsbD 3 = true))) ∧
  (∀ (s : State) (v : Reg32) (r : WindowReg), s.busy = true → r = .ctrl ∨ r = .rksel ∨ (∃ n, r = .key n ∨ r = .din n) →
    busWrite r v s = .next { s with wdrop := true }) ∧
  (∀ (s : State) (v : Reg32), v.getLsbD 3 = true → busWrite .status v s = .next { s with wdrop := false }) ∧
  State.reset.wdrop = false

/-- R31: PATH is latched at reset and no later event changes it: a step keeps it, or is a reset and latches it again. It is
STATUS.HWACC, and no result depends on it. -/
def Obligations.PathChangesOnlyAtReset : Prop :=
  State.reset.path = (if Config.hwAccelPresent then ExecPath.hw else ExecPath.sw) ∧
  (∀ s t : State, step s = .next t →
    t.path = s.path ∨ (s.host.head? = some .reset ∧ t.path = State.reset.path)) ∧
  (∀ s : State, (readValue .status s).getLsbD 2 = decide (s.path = .hw)) ∧
  (∀ (i : Instr) (s : State) (p : ExecPath),
    committed i { s with path := p } = (committed i s).map fun t => { t with path := p })

/-- A host that waits for completion (R334) never has a write dropped, and goes on waiting. -/
def Obligations.WaitingHostNeverHasAWriteDropped : Prop :=
  ∀ s t : State, s.Polled → s.wdrop = false → step s = .next t → t.Polled ∧ t.wdrop = false

/-- `run <command>` (R102): a CTRL write and a poll take three steps, acceptance, completion and the STATUS read that ends the
poll, and leave the state the command leaves, with that STATUS value read by the host. -/
def Obligations.RunCommandIsAcceptCompletePoll : Prop :=
  ∀ (s t : State) (i : Instr) (rest : List HostOp),
    s.busy = false → i.wellFormed = true →
    s.host = .write 32 (.window 0x00) (encode i) :: .poll :: rest →
    committed i { s with host := rest } = some t →
    core.run 3 s = .next { t with reads := readValue .status t :: s.reads }

/-- Nothing of the machine's control depends on key or data: two states that differ only in KEY, DIN, STATE, RK, LUT_RESULT,
the data of PENDING, the data of KEY and DIN writes and the arguments of table lookups step alike, to states that differ only
there, or stop alike. -/
def Obligations.ControlDoesNotDependOnKeyOrData : Prop :=
  ∀ s s' : State, s.public = s'.public → publicOutcome (step s) = publicOutcome (step s')

/-- R29: BUSY rises only at the acceptance of a command, and falls only at the completion step or by reset; each of the three
does it, in every state. It is 0 after reset. -/
def Obligations.OnlyAcceptanceCompletionAndResetChangeBusy : Prop :=
  (∀ s t : State, step s = .next t → t.busy ≠ s.busy →
    (t.busy = true ∧ ∃ w a v rest, s.host = .write w a v :: rest ∧ checkAccess ⟨.write, w, a⟩ = .ok .ctrl ∧
      acceptWord v { s with host := rest } = .next t) ∨
    (t.busy = false ∧ (t = complete s ∨ ∃ rest, s.host = .reset :: rest ∧ hostOp .reset { s with host := rest } = .next t))) ∧
  (∀ (v : Reg32) (s : State), s.busy = false → ∃ t, busWrite .ctrl v s = .next t ∧ t.busy = true) ∧
  (∀ s : State, (complete s).busy = false) ∧
  (∀ s : State, ∃ t, hostOp .reset s = .next t ∧ t.busy = false) ∧
  State.reset.busy = false

/-- RKSEL changes only by a host write to offset 0x40 with BUSY = 0, which sets it to bits [3:0] of what is written, or by
reset, which sets it to 0: no command writes it. -/
def Obligations.OnlyHostWritesChangeRksel : Prop :=
  ∀ s t : State, step s = .next t → t.rksel ≠ s.rksel →
    (s.host.head? = some .reset ∧ t.rksel = 0) ∨
    ∃ a v, s.host.head? = some (.write 32 a v) ∧ a.offset = some 0x40 ∧ s.busy = false ∧ t.rksel = v.extractLsb' 0 4
end

