-- ==== Sys2Proof/Laws/State.lean ====
section
/-! SUPPORT. One lemma per field for each update of the state, so that no proof unfolds a record update. -/

namespace Sys2Proof.Machine

/-! ## accept (R35) -/

@[simp] theorem accept_key (r : Result) (s : State) : (accept r s).key = s.key := rfl
@[simp] theorem accept_din (r : Result) (s : State) : (accept r s).din = s.din := rfl
@[simp] theorem accept_state (r : Result) (s : State) : (accept r s).state = s.state := rfl
@[simp] theorem accept_rk (r : Result) (s : State) : (accept r s).rk = s.rk := rfl
@[simp] theorem accept_keyValid (r : Result) (s : State) : (accept r s).keyValid = s.keyValid := rfl
@[simp] theorem accept_lut (r : Result) (s : State) : (accept r s).lut = s.lut := rfl
@[simp] theorem accept_rksel (r : Result) (s : State) : (accept r s).rksel = s.rksel := rfl
@[simp] theorem accept_err (r : Result) (s : State) : (accept r s).err = s.err := rfl
@[simp] theorem accept_busy (r : Result) (s : State) : (accept r s).busy = true := rfl
@[simp] theorem accept_wdrop (r : Result) (s : State) : (accept r s).wdrop = s.wdrop := rfl
@[simp] theorem accept_path (r : Result) (s : State) : (accept r s).path = s.path := rfl
@[simp] theorem accept_pending (r : Result) (s : State) : (accept r s).pending = some r := rfl
@[simp] theorem accept_turns (r : Result) (s : State) : (accept r s).turns = Config.busyTurns s.draws := rfl
@[simp] theorem accept_draws (r : Result) (s : State) : (accept r s).draws = s.draws + 1 := rfl
@[simp] theorem accept_host (r : Result) (s : State) : (accept r s).host = s.host := rfl
@[simp] theorem accept_reads (r : Result) (s : State) : (accept r s).reads = s.reads := rfl

/-! ## commit (R36) -/

@[simp] theorem commit_key (r : Result) (s : State) : (commit r s).key = s.key := rfl
@[simp] theorem commit_din (r : Result) (s : State) : (commit r s).din = s.din := rfl
@[simp] theorem commit_state (r : Result) (s : State) : (commit r s).state = r.writes.state.getD s.state := rfl
@[simp] theorem commit_rk (r : Result) (s : State) : (commit r s).rk = r.writes.rk.getD s.rk := rfl
@[simp] theorem commit_keyValid (r : Result) (s : State) : (commit r s).keyValid = r.writes.keyValid.getD s.keyValid := rfl
@[simp] theorem commit_lut (r : Result) (s : State) : (commit r s).lut = r.writes.lut.getD s.lut := rfl
@[simp] theorem commit_rksel (r : Result) (s : State) : (commit r s).rksel = s.rksel := rfl
@[simp] theorem commit_err (r : Result) (s : State) : (commit r s).err = r.err.code := rfl
@[simp] theorem commit_busy (r : Result) (s : State) : (commit r s).busy = s.busy := rfl
@[simp] theorem commit_wdrop (r : Result) (s : State) : (commit r s).wdrop = s.wdrop := rfl
@[simp] theorem commit_path (r : Result) (s : State) : (commit r s).path = s.path := rfl
@[simp] theorem commit_pending (r : Result) (s : State) : (commit r s).pending = s.pending := rfl
@[simp] theorem commit_turns (r : Result) (s : State) : (commit r s).turns = s.turns := rfl
@[simp] theorem commit_draws (r : Result) (s : State) : (commit r s).draws = s.draws := rfl
@[simp] theorem commit_host (r : Result) (s : State) : (commit r s).host = s.host := rfl
@[simp] theorem commit_reads (r : Result) (s : State) : (commit r s).reads = s.reads := rfl

/-! ## dropWrite (R336) -/

@[simp] theorem dropWrite_key (s : State) : (dropWrite s).key = s.key := rfl
@[simp] theorem dropWrite_din (s : State) : (dropWrite s).din = s.din := rfl
@[simp] theorem dropWrite_state (s : State) : (dropWrite s).state = s.state := rfl
@[simp] theorem dropWrite_rk (s : State) : (dropWrite s).rk = s.rk := rfl
@[simp] theorem dropWrite_keyValid (s : State) : (dropWrite s).keyValid = s.keyValid := rfl
@[simp] theorem dropWrite_lut (s : State) : (dropWrite s).lut = s.lut := rfl
@[simp] theorem dropWrite_rksel (s : State) : (dropWrite s).rksel = s.rksel := rfl
@[simp] theorem dropWrite_err (s : State) : (dropWrite s).err = s.err := rfl
@[simp] theorem dropWrite_busy (s : State) : (dropWrite s).busy = s.busy := rfl
@[simp] theorem dropWrite_wdrop (s : State) : (dropWrite s).wdrop = true := rfl
@[simp] theorem dropWrite_path (s : State) : (dropWrite s).path = s.path := rfl
@[simp] theorem dropWrite_pending (s : State) : (dropWrite s).pending = s.pending := rfl
@[simp] theorem dropWrite_turns (s : State) : (dropWrite s).turns = s.turns := rfl
@[simp] theorem dropWrite_draws (s : State) : (dropWrite s).draws = s.draws := rfl
@[simp] theorem dropWrite_host (s : State) : (dropWrite s).host = s.host := rfl
@[simp] theorem dropWrite_reads (s : State) : (dropWrite s).reads = s.reads := rfl

/-! ## applyReset (R330, R331) -/

@[simp] theorem applyReset_key (s : State) : (applyReset s).key = State.reset.key := rfl
@[simp] theorem applyReset_din (s : State) : (applyReset s).din = State.reset.din := rfl
@[simp] theorem applyReset_state (s : State) : (applyReset s).state = State.reset.state := rfl
@[simp] theorem applyReset_rk (s : State) : (applyReset s).rk = State.reset.rk := rfl
@[simp] theorem applyReset_keyValid (s : State) : (applyReset s).keyValid = State.reset.keyValid := rfl
@[simp] theorem applyReset_lut (s : State) : (applyReset s).lut = State.reset.lut := rfl
@[simp] theorem applyReset_rksel (s : State) : (applyReset s).rksel = State.reset.rksel := rfl
@[simp] theorem applyReset_err (s : State) : (applyReset s).err = State.reset.err := rfl
@[simp] theorem applyReset_busy (s : State) : (applyReset s).busy = State.reset.busy := rfl
@[simp] theorem applyReset_wdrop (s : State) : (applyReset s).wdrop = State.reset.wdrop := rfl
@[simp] theorem applyReset_path (s : State) : (applyReset s).path = State.reset.path := rfl
@[simp] theorem applyReset_pending (s : State) : (applyReset s).pending = State.reset.pending := rfl
@[simp] theorem applyReset_turns (s : State) : (applyReset s).turns = State.reset.turns := rfl
@[simp] theorem applyReset_draws (s : State) : (applyReset s).draws = s.draws := rfl
@[simp] theorem applyReset_host (s : State) : (applyReset s).host = s.host := rfl
@[simp] theorem applyReset_reads (s : State) : (applyReset s).reads = s.reads := rfl

/-! ## busRead (R271) -/

@[simp] theorem busRead_key (r : WindowReg) (s : State) : (busRead r s).key = s.key := rfl
@[simp] theorem busRead_din (r : WindowReg) (s : State) : (busRead r s).din = s.din := rfl
@[simp] theorem busRead_state (r : WindowReg) (s : State) : (busRead r s).state = s.state := rfl
@[simp] theorem busRead_rk (r : WindowReg) (s : State) : (busRead r s).rk = s.rk := rfl
@[simp] theorem busRead_keyValid (r : WindowReg) (s : State) : (busRead r s).keyValid = s.keyValid := rfl
@[simp] theorem busRead_lut (r : WindowReg) (s : State) : (busRead r s).lut = s.lut := rfl
@[simp] theorem busRead_rksel (r : WindowReg) (s : State) : (busRead r s).rksel = s.rksel := rfl
@[simp] theorem busRead_err (r : WindowReg) (s : State) : (busRead r s).err = s.err := rfl
@[simp] theorem busRead_busy (r : WindowReg) (s : State) : (busRead r s).busy = s.busy := rfl
@[simp] theorem busRead_wdrop (r : WindowReg) (s : State) : (busRead r s).wdrop = s.wdrop := rfl
@[simp] theorem busRead_path (r : WindowReg) (s : State) : (busRead r s).path = s.path := rfl
@[simp] theorem busRead_pending (r : WindowReg) (s : State) : (busRead r s).pending = s.pending := rfl
@[simp] theorem busRead_turns (r : WindowReg) (s : State) : (busRead r s).turns = s.turns := rfl
@[simp] theorem busRead_draws (r : WindowReg) (s : State) : (busRead r s).draws = if s.busy && r.drawsWhenBusy then s.draws + 1 else s.draws := rfl
@[simp] theorem busRead_host (r : WindowReg) (s : State) : (busRead r s).host = s.host := rfl
@[simp] theorem busRead_reads (r : WindowReg) (s : State) : (busRead r s).reads = readValue r s :: s.reads := rfl

/-! ## placeCommand -/

@[simp] theorem placeCommand_key (v : Reg32) (s : State) : (placeCommand v s).key = s.key := rfl
@[simp] theorem placeCommand_din (v : Reg32) (s : State) : (placeCommand v s).din = s.din := rfl
@[simp] theorem placeCommand_state (v : Reg32) (s : State) : (placeCommand v s).state = s.state := rfl
@[simp] theorem placeCommand_rk (v : Reg32) (s : State) : (placeCommand v s).rk = s.rk := rfl
@[simp] theorem placeCommand_keyValid (v : Reg32) (s : State) : (placeCommand v s).keyValid = s.keyValid := rfl
@[simp] theorem placeCommand_lut (v : Reg32) (s : State) : (placeCommand v s).lut = s.lut := rfl
@[simp] theorem placeCommand_rksel (v : Reg32) (s : State) : (placeCommand v s).rksel = s.rksel := rfl
@[simp] theorem placeCommand_err (v : Reg32) (s : State) : (placeCommand v s).err = s.err := rfl
@[simp] theorem placeCommand_busy (v : Reg32) (s : State) : (placeCommand v s).busy = false := rfl
@[simp] theorem placeCommand_wdrop (v : Reg32) (s : State) : (placeCommand v s).wdrop = s.wdrop := rfl
@[simp] theorem placeCommand_path (v : Reg32) (s : State) : (placeCommand v s).path = s.path := rfl
@[simp] theorem placeCommand_pending (v : Reg32) (s : State) : (placeCommand v s).pending = none := rfl
@[simp] theorem placeCommand_turns (v : Reg32) (s : State) : (placeCommand v s).turns = 0 := rfl
@[simp] theorem placeCommand_draws (v : Reg32) (s : State) : (placeCommand v s).draws = s.draws := rfl
@[simp] theorem placeCommand_host (v : Reg32) (s : State) : (placeCommand v s).host = .write 32 (.window 0x00) v :: s.host := rfl
@[simp] theorem placeCommand_reads (v : Reg32) (s : State) : (placeCommand v s).reads = s.reads := rfl

/-! ## complete (R36) -/

/-- The completion step, when PENDING holds a Result. -/
theorem complete_of_pending (s : State) (r : Result) (h : s.pending = some r) :
    complete s = { commit r s with busy := false, pending := none, turns := 0 } := by
  simp [complete, h]

/-- The completion of a command that has just been accepted. -/
@[simp] theorem complete_accept (r : Result) (s : State) :
    complete (accept r s) =
      { commit r s with busy := false, pending := none, turns := 0, draws := s.draws + 1 } := rfl

@[simp] theorem complete_busy (s : State) : (complete s).busy = false := by
  unfold complete; split <;> rfl
@[simp] theorem complete_turns (s : State) : (complete s).turns = 0 := by
  unfold complete; split <;> rfl
@[simp] theorem complete_key (s : State) : (complete s).key = s.key := by
  unfold complete; split <;> rfl
@[simp] theorem complete_din (s : State) : (complete s).din = s.din := by
  unfold complete; split <;> rfl
@[simp] theorem complete_rksel (s : State) : (complete s).rksel = s.rksel := by
  unfold complete; split <;> rfl
@[simp] theorem complete_wdrop (s : State) : (complete s).wdrop = s.wdrop := by
  unfold complete; split <;> rfl
@[simp] theorem complete_path (s : State) : (complete s).path = s.path := by
  unfold complete; split <;> rfl
@[simp] theorem complete_draws (s : State) : (complete s).draws = s.draws := by
  unfold complete; split <;> rfl
@[simp] theorem complete_host (s : State) : (complete s).host = s.host := by
  unfold complete; split <;> rfl
@[simp] theorem complete_reads (s : State) : (complete s).reads = s.reads := by
  unfold complete; split <;> rfl

@[simp] theorem complete_pending (s : State) : (complete s).pending = none := by
  unfold complete; split <;> simp_all

/-! ## finish and raise (R100, R301) -/

@[simp] theorem finish_ok (w : Writes) : finish (.ok w) = ⟨w, .success⟩ := rfl
@[simp] theorem finish_error (e : ErrCode) : finish (.error e) = ⟨{}, e⟩ := rfl
@[simp] theorem raise_writes (e : ErrCode) : (Result.raise e).writes = {} := rfl
@[simp] theorem raise_err (e : ErrCode) : (Result.raise e).err = e := rfl

/-! ## ErrCode.code (R300) -/

@[simp] theorem code_success : ErrCode.success.code = 0 := rfl
@[simp] theorem code_invalidKeyLength : ErrCode.invalidKeyLength.code = 1 := rfl
@[simp] theorem code_invalidBlockLength : ErrCode.invalidBlockLength.code = 2 := rfl
@[simp] theorem code_invalidKeySchedule : ErrCode.invalidKeySchedule.code = 3 := rfl
@[simp] theorem code_illegalCommand : ErrCode.illegalCommand.code = 4 := rfl
@[simp] theorem code_illegalArgument : ErrCode.illegalArgument.code = 5 := rfl

/-- Codes 6..15 are never written (R28). -/
theorem code_le_five (e : ErrCode) : e.code.toNat ≤ 5 := by cases e <;> decide

end Sys2Proof.Machine
end

