-- ==== Sys2Proof/Laws/Ops.lean ====
section
/-! SUPPORT. What each shared operation can do, said once: the operand checks, the exec of every command as one acceptance, a
host operation, and a step. Proofs cite these and do not unfold the operations. -/

namespace Sys2Proof.Machine

/-! ## Operand checks -/

@[simp] theorem operandLength_sixteen (e : ErrCode) : operandLength 16 e = .ok () := rfl

theorem operandLength_of_ne (len : Nat) (e : ErrCode) (h : len ≠ 16) : operandLength len e = .error e := by
  simp [operandLength, h]

@[simp] theorem requireSchedule_true : requireSchedule true = .ok () := rfl
@[simp] theorem requireSchedule_false : requireSchedule false = .error .invalidKeySchedule := rfl

/-- RK has the keys 0..10 and no other (R8). -/
theorem roundKey_eq_none_iff (rk : Schedule) (k : Nat) : rk.roundKey k = none ↔ 10 < k := by
  rcases k with _ | _ | _ | _ | _ | _ | _ | _ | _ | _ | _ | k <;> simp [Schedule.roundKey]

theorem roundKey_ofFn (f : Nat → RoundKey) (k : Nat) (h : k ≤ 10) : (Schedule.ofFn f).roundKey k = some (f k) := by
  rcases k with _ | _ | _ | _ | _ | _ | _ | _ | _ | _ | _ | k <;> first | rfl | omega

theorem operandRoundKey_of_some (k : Nat) (rk : Schedule) (key : RoundKey) (h : rk.roundKey k = some key) :
    operandRoundKey k rk = .ok key := by simp [operandRoundKey, h]

theorem operandRoundKey_of_gt (k : Nat) (rk : Schedule) (h : 10 < k) :
    operandRoundKey k rk = .error .illegalArgument := by
  simp [operandRoundKey, (roundKey_eq_none_iff rk k).2 h]

/-- rcon has a value on 1..10 only (R129, R130). -/
theorem rcon_eq_none_iff (r : Nat) : rcon r = none ↔ r = 0 ∨ 10 < r := by
  cases r with
  | zero => simp [rcon]
  | succ n => simp [rcon, rconTable]

/-! ## exec: every command is one acceptance -/

/-- The rule of a command (R100), as its meaning uses it. -/
def ruleOf (i : Instr) (s : State) : Except ErrCode Writes :=
  match i with
  | .nop => nopRule
  | .keyExpand len => keyExpandRule len s
  | .encrypt len => encryptRule len s
  | .decrypt len => decryptRule len s
  | .loadState => stateRule s.din
  | .subBytes => stateRule (subBytes s.state)
  | .invSubBytes => stateRule (invSubBytes s.state)
  | .shiftRows => stateRule (shiftRows s.state)
  | .invShiftRows => stateRule (invShiftRows s.state)
  | .mixColumns => stateRule (mixColumns s.state)
  | .invMixColumns => stateRule (invMixColumns s.state)
  | .addRoundKey k => keyedRule addRoundKey k s
  | .encRound k => keyedRule encRound k s
  | .encLast k => keyedRule encLast k s
  | .decRound k => keyedRule decRound k s
  | .decLast k => keyedRule decLast k s
  | .lutSbox a => lookupRule (sbox a)
  | .lutInvSbox a => lookupRule (invSbox a)
  | .lutRcon r => lutRconRule r
  | .lutGfMul a b => lookupRule (gfMul a b)

/-- Every command is accepted, with the Result of its rule (R35, R100). -/
theorem exec_eq_accept (i : Instr) (s : State) : exec i s = .next (accept (finish (ruleOf i s)) s) := by
  cases i <;> rfl

/-- The rule of a command word: of the command it decodes to, or IllegalCommand (R97, R100). -/
def wordRule (v : Reg32) (s : State) : Except ErrCode Writes :=
  match Sys2Proof.decode v with
  | .command i => ruleOf i s
  | .illegal _ => .error .illegalCommand

/-- Every command word is accepted (R35, R97). -/
theorem acceptWord_eq_accept (v : Reg32) (s : State) : acceptWord v s = .next (accept (finish (wordRule v s)) s) := by
  cases hd : Sys2Proof.decode v <;> simp [acceptWord, wordRule, hd, exec_eq_accept, acceptRule]

/-- The state a command leaves once completed. -/
theorem committed_eq (i : Instr) (s : State) :
    committed i s = some { commit (finish (ruleOf i s)) s with busy := false, pending := none, turns := 0, draws := s.draws + 1 } := by
  simp [committed, exec_eq_accept]

/-- A format K rule: the three ways it can end (R202, R302). -/
theorem keyedRule_cases (f : Block → RoundKey → Block) (k : Nat) (s : State) :
    (10 < k ∧ keyedRule f k s = .error .illegalArgument) ∨
    (k ≤ 10 ∧ s.keyValid = false ∧ keyedRule f k s = .error .invalidKeySchedule) ∨
    (∃ rk, k ≤ 10 ∧ s.rk.roundKey k = some rk ∧ s.keyValid = true ∧
      keyedRule f k s = .ok { state := some (f s.state rk) }) := by
  by_cases hk : 10 < k
  · exact .inl ⟨hk, by simp [keyedRule, operandRoundKey_of_gt k s.rk hk, bind, Except.bind]⟩
  · have hn : s.rk.roundKey k ≠ none := fun h => hk ((roundKey_eq_none_iff _ _).1 h)
    obtain ⟨rk, hrk⟩ := Option.ne_none_iff_exists'.1 hn
    cases hv : s.keyValid with
    | false =>
      exact .inr (.inl ⟨by omega, rfl, by simp [keyedRule, operandRoundKey_of_some k s.rk rk hrk, hv, bind, Except.bind]⟩)
    | true =>
      exact .inr (.inr ⟨rk, by omega, hrk, rfl, by
        simp [keyedRule, operandRoundKey_of_some k s.rk rk hrk, hv, bind, Except.bind, stateRule]⟩)

/-- KEY_EXPAND's rule: the two ways it can end (R170). -/
theorem keyExpandRule_cases (len : Nat) (s : State) :
    (len ≠ 16 ∧ keyExpandRule len s = .error .invalidKeyLength) ∨
    (len = 16 ∧ keyExpandRule len s = .ok { rk := some (keyExpansion s.key), keyValid := some true }) := by
  by_cases h : len = 16
  · subst h; exact .inr ⟨rfl, rfl⟩
  · exact .inl ⟨h, by simp [keyExpandRule, operandLength_of_ne _ _ h, bind, Except.bind]⟩

/-- ENCRYPT's rule: the three ways it can end (R230). -/
theorem encryptRule_cases (len : Nat) (s : State) :
    (len ≠ 16 ∧ encryptRule len s = .error .invalidBlockLength) ∨
    (len = 16 ∧ s.keyValid = false ∧ encryptRule len s = .error .invalidKeySchedule) ∨
    (len = 16 ∧ s.keyValid = true ∧ encryptRule len s = .ok { state := some (encryptBlock s.din s.rk) }) := by
  by_cases h : len = 16
  · subst h
    cases hv : s.keyValid <;> simp [encryptRule, hv, bind, Except.bind, stateRule]
  · exact .inl ⟨h, by simp [encryptRule, operandLength_of_ne _ _ h, bind, Except.bind]⟩

/-- DECRYPT's rule: the three ways it can end (R231). -/
theorem decryptRule_cases (len : Nat) (s : State) :
    (len ≠ 16 ∧ decryptRule len s = .error .invalidBlockLength) ∨
    (len = 16 ∧ s.keyValid = false ∧ decryptRule len s = .error .invalidKeySchedule) ∨
    (len = 16 ∧ s.keyValid = true ∧ decryptRule len s = .ok { state := some (decryptBlock s.din s.rk) }) := by
  by_cases h : len = 16
  · subst h
    cases hv : s.keyValid <;> simp [decryptRule, hv, bind, Except.bind, stateRule]
  · exact .inl ⟨h, by simp [decryptRule, operandLength_of_ne _ _ h, bind, Except.bind]⟩

/-- LUT_RCON's rule: the two ways it can end (R142). -/
theorem lutRconRule_cases (r : Byte) (s : State) :
    ((r.toNat = 0 ∨ 10 < r.toNat) ∧ ruleOf (.lutRcon r) s = .error .illegalArgument) ∨
    (∃ c, rcon r.toNat = some c ∧ ¬(r.toNat = 0 ∨ 10 < r.toNat) ∧ ruleOf (.lutRcon r) s = .ok { lut := some c }) := by
  cases h : rcon r.toNat with
  | none => exact .inl ⟨(rcon_eq_none_iff _).1 h, by simp [ruleOf, lutRconRule, operandRcon, h, bind, Except.bind]⟩
  | some c =>
    exact .inr ⟨c, rfl, fun hn => by simp [(rcon_eq_none_iff _).2 hn] at h, by
      simp [ruleOf, lutRconRule, operandRcon, h, bind, Except.bind, lookupRule]⟩

/-- A rule answers an error other than success, or writes in one of four shapes: nothing, STATE, LUT_RESULT, or RK with
KEY_VALID. -/
theorem ruleOf_cases (i : Instr) (s : State) :
    (∃ e, e ≠ .success ∧ ruleOf i s = .error e) ∨ ruleOf i s = .ok {} ∨ (∃ b, ruleOf i s = .ok { state := some b }) ∨
    (∃ v, ruleOf i s = .ok { lut := some v }) ∨
    (i = .keyExpand 16 ∧ ruleOf i s = .ok { rk := some (keyExpansion s.key), keyValid := some true }) := by
  have keyed : ∀ (f : Block → RoundKey → Block) (k : Nat),
      (∃ e, e ≠ .success ∧ keyedRule f k s = .error e) ∨ (∃ b, keyedRule f k s = .ok { state := some b }) := by
    intro f k
    rcases keyedRule_cases f k s with ⟨-, h⟩ | ⟨-, -, h⟩ | ⟨rk, -, -, -, h⟩ <;> simp [h]
  cases i with
  | nop => exact .inr (.inl rfl)
  | keyExpand len =>
    rcases keyExpandRule_cases len s with ⟨-, h⟩ | ⟨rfl, h⟩
    · exact .inl ⟨_, by decide, h⟩
    · exact .inr (.inr (.inr (.inr ⟨rfl, h⟩)))
  | encrypt len => rcases encryptRule_cases len s with ⟨-, h⟩ | ⟨-, -, h⟩ | ⟨-, -, h⟩ <;> simp [ruleOf, h]
  | decrypt len => rcases decryptRule_cases len s with ⟨-, h⟩ | ⟨-, -, h⟩ | ⟨-, -, h⟩ <;> simp [ruleOf, h]
  | lutRcon r => rcases lutRconRule_cases r s with ⟨-, h⟩ | ⟨c, -, -, h⟩ <;> simp [h]
  | addRoundKey k | encRound k | encLast k | decRound k | decLast k =>
    rcases keyed _ k with h | h
    · exact .inl h
    · exact .inr (.inr (.inl h))
  | loadState | subBytes | invSubBytes | shiftRows | invShiftRows | mixColumns | invMixColumns =>
    exact .inr (.inr (.inl ⟨_, rfl⟩))
  | lutSbox a | lutInvSbox a | lutGfMul a b => exact .inr (.inr (.inr (.inl ⟨_, rfl⟩)))

/-! ## Host operations and steps -/

/-- What an access that is not refused is (R66): 32 bits wide, at an aligned offset of the window, whose register it reaches. -/
theorem checkAccess_ok (k : AccessKind) (w : Nat) (a : BusAddr) (r : WindowReg) (h : checkAccess ⟨k, w, a⟩ = .ok r) :
    w = 32 ∧ ∃ off, a.offset = some off ∧ off < 0x100 ∧ off % 4 = 0 ∧ r = regAt off := by
  simp only [checkAccess] at h
  split at h
  · cases h
  · rename_i hw
    split at h
    · cases h
    · rename_i off ho
      split at h
      · cases h
      · split at h
        · cases h
        · exact ⟨by omega, off, ho, by omega, by omega, by simpa using h.symm⟩

/-- An aligned 32-bit access in the window is not refused (R66). -/
theorem checkAccess_of_offset (k : AccessKind) (a : BusAddr) (off : Nat) (ho : a.offset = some off) (ha : off % 4 = 0)
    (hw : off < 0x100) : checkAccess ⟨k, 32, a⟩ = .ok (regAt off) := by
  simp [checkAccess, ho, ha, show ¬ 256 ≤ off by omega]

/-- Only offset 0x00 is CTRL (R37). -/
theorem regAt_eq_ctrl (off : Nat) (h : regAt off = .ctrl) : off = 0x00 := by
  unfold regAt at h
  split at h <;> simp_all

/-- Only offset 0x40 is RKSEL (R37). -/
theorem regAt_eq_rksel (off : Nat) (h : regAt off = .rksel) : off = 0x40 := by
  unfold regAt at h
  split at h <;> simp_all

theorem offset_of_checkAccess_ctrl (k : AccessKind) (w : Nat) (a : BusAddr) (h : checkAccess ⟨k, w, a⟩ = .ok .ctrl) :
    a.offset = some 0x00 := by
  obtain ⟨-, off, ho, -, -, hr⟩ := checkAccess_ok k w a _ h
  rw [ho, regAt_eq_ctrl off hr.symm]

/-- What a bus write that is not a command can do (R272). -/
theorem writeReg_cases (r : WindowReg) (v : Reg32) (s : State) :
    writeReg r v s = s ∨ (r = .status ∧ v.getLsbD 3 = true ∧ writeReg r v s = { s with wdrop := false }) ∨
    (s.busy = true ∧ (r = .rksel ∨ ∃ n, r = .key n ∨ r = .din n) ∧ writeReg r v s = { s with wdrop := true }) ∨
    (∃ n, s.busy = false ∧ r = .key n ∧ writeReg r v s = { s with key := s.key.setCol n (unpack v) }) ∨
    (∃ n, s.busy = false ∧ r = .din n ∧ writeReg r v s = { s with din := s.din.setCol n (unpack v) }) ∨
    (s.busy = false ∧ r = .rksel ∧ writeReg r v s = { s with rksel := v.extractLsb' 0 4 }) := by
  cases r <;> cases hb : s.busy <;> simp [writeReg, dropWrite, hb] <;> cases hv : v[3] <;> simp

/-- `busWrite` is `writeReg` but at CTRL (R272). -/
theorem busWrite_of_ne_ctrl (r : WindowReg) (v : Reg32) (s : State) (h : r ≠ .ctrl) :
    busWrite r v s = .next (writeReg r v s) := by
  cases r <;> first | rfl | exact absurd rfl h

/-- What a host operation that answers a next state can do (R271 to R273, R331). -/
theorem hostOp_cases (op : HostOp) (s t : State) (h : hostOp op s = .next t) :
    (op = .reset ∧ t = applyReset s) ∨
    (∃ r, t = busRead r s ∧ ((op = .poll ∧ r = .status) ∨
      ∃ w a, op = .read w a ∧ checkAccess ⟨.read, w, a⟩ = .ok r)) ∨
    (∃ w a v r, op = .write w a v ∧ checkAccess ⟨.write, w, a⟩ = .ok r ∧
      ((r = .ctrl ∧ s.busy = true ∧ t = dropWrite s) ∨
        (r = .ctrl ∧ s.busy = false ∧ t = accept (finish (wordRule v s)) s) ∨
        (r ≠ .ctrl ∧ t = writeReg r v s))) := by
  cases op with
  | reset => exact .inl ⟨rfl, by simpa [hostOp] using h.symm⟩
  | poll => exact .inr (.inl ⟨.status, by simpa [hostOp] using h.symm, .inl ⟨rfl, rfl⟩⟩)
  | read w a =>
    cases hc : checkAccess ⟨.read, w, a⟩ with
    | error f => simp [hostOp, hc] at h
    | ok r => exact .inr (.inl ⟨r, by simpa [hostOp, hc] using h.symm, .inr ⟨w, a, rfl, hc⟩⟩)
  | write w a v =>
    cases hc : checkAccess ⟨.write, w, a⟩ with
    | error f => simp [hostOp, hc] at h
    | ok r =>
      refine .inr (.inr ⟨w, a, v, r, rfl, hc, ?_⟩)
      simp only [hostOp, hc] at h
      by_cases hr : r = .ctrl
      · subst hr
        cases hb : s.busy with
        | true => exact .inl ⟨rfl, rfl, by simpa [busWrite, hb] using h.symm⟩
        | false => exact .inr (.inl ⟨rfl, rfl, by simpa [busWrite, hb, acceptWord_eq_accept] using h.symm⟩)
      · exact .inr (.inr ⟨hr, by simpa [busWrite_of_ne_ctrl r v s hr] using h.symm⟩)

/-- What a step can do: nothing (idle), the completion step, or the host's next operation (R274). -/
theorem step_cases (s : State) :
    (s.host = [] ∧ s.busy = false ∧ step s = .next s) ∨
    (s.busy = true ∧ (s.host = [] ∨ s.turns = 0 ∨ ∃ rest, s.host = .poll :: rest) ∧ step s = .next (complete s)) ∨
    (∃ op rest n, s.host = op :: rest ∧ s.busy = true ∧ op ≠ .poll ∧ s.turns = n + 1 ∧
      step s = hostOp op { s with host := rest, turns := n }) ∨
    (∃ op rest, s.host = op :: rest ∧ s.busy = false ∧ step s = hostOp op { s with host := rest }) := by
  cases hh : s.host with
  | nil => cases hb : s.busy <;> simp [step, turn, hh, hb]
  | cons op rest =>
    cases hb : s.busy with
    | false => exact .inr (.inr (.inr ⟨op, rest, rfl, rfl, by simp [step, turn, hh, hb]⟩))
    | true =>
      cases ht : s.turns with
      | zero => exact .inr (.inl ⟨rfl, .inr (.inl rfl), by simp [step, turn, hh, hb, ht]⟩)
      | succ n =>
        cases op with
        | poll => exact .inr (.inl ⟨rfl, .inr (.inr ⟨rest, rfl⟩), by simp [step, turn, hh, hb, HostOp.waits]⟩)
        | reset =>
          exact .inr (.inr (.inl ⟨.reset, rest, n, rfl, rfl, by simp, rfl, by simp [step, turn, hh, hb, ht, HostOp.waits]⟩))
        | read w a =>
          exact .inr (.inr (.inl ⟨.read w a, rest, n, rfl, rfl, by simp, rfl, by simp [step, turn, hh, hb, ht, HostOp.waits]⟩))
        | write w a v =>
          exact .inr (.inr (.inl ⟨.write w a v, rest, n, rfl, rfl, by simp, rfl, by simp [step, turn, hh, hb, ht, HostOp.waits]⟩))

end Sys2Proof.Machine
end

