-- ==== Sys2Proof/Laws/Word.lean ====
section
/-! SUPPORT. Small laws of the word-level functions: the fields of an assembled word, packing, blocks, and gf_mul as a linear
map. -/

namespace Sys2Proof

/-! ## The fields of an assembled word (R101) -/

/-- An opcode has 5 bits (R91). -/
theorem testBit_of_lt_32 (op : Nat) (hop : op < 32) (j : Nat) (hj : 5 ≤ j) : op.testBit j = false :=
  Nat.testBit_lt_two_pow (lt_of_lt_of_le hop (show 2 ^ 5 ≤ 2 ^ j from Nat.pow_le_pow_right (by decide) hj))

theorem opcode_lt (i : Instr) : opcode i < 32 := by cases i <;> simp [opcode]

/-- A bit of an assembled word: OP, field A, field B. -/
theorem getLsbD_assemble (op : Nat) (a b : Byte) (hop : op < 32) (i : Nat) :
    (assemble op a b).getLsbD i =
      if i < 8 then op.testBit i else if i < 16 then a.getLsbD (i - 8) else if i < 24 then b.getLsbD (i - 16) else false := by
  have hz := testBit_of_lt_32 op hop
  simp only [assemble, BitVec.getLsbD_or, BitVec.getLsbD_shiftLeft, BitVec.getLsbD_setWidth, BitVec.getLsbD_ofNat]
  by_cases h1 : i < 8
  · have : i < 32 := by omega
    simp [h1, this, show i < 16 by omega]
  · by_cases h2 : i < 16
    · simp [h1, h2, hz i (by omega), show i < 32 by omega, show i - 8 < 32 by omega]
    · by_cases h3 : i < 24
      · simp [h1, h2, h3, hz i (by omega), show i < 32 by omega, show i - 16 < 32 by omega,
          BitVec.getLsbD_of_ge a (i - 8) (by omega)]
      · simp [h1, h2, h3, hz i (by omega), BitVec.getLsbD_of_ge a (i - 8) (by omega),
          BitVec.getLsbD_of_ge b (i - 16) (by omega)]

theorem fieldA_assemble (op : Nat) (a b : Byte) (hop : op < 32) : fieldA (assemble op a b) = a := by
  apply BitVec.eq_of_getLsbD_eq
  intro i hi
  simp [fieldA, getLsbD_assemble op a b hop, hi, show ¬ (8 + i < 8) by omega, show 8 + i < 16 by omega]

theorem fieldB_assemble (op : Nat) (a b : Byte) (hop : op < 32) : fieldB (assemble op a b) = b := by
  apply BitVec.eq_of_getLsbD_eq
  intro i hi
  simp [fieldB, getLsbD_assemble op a b hop, hi, show ¬ (16 + i < 8) by omega, show ¬ (16 + i < 16) by omega,
    show 16 + i < 24 by omega]

theorem opField_assemble (op : Nat) (a b : Byte) (hop : op < 32) : opField (assemble op a b) = op := by
  have h : (assemble op a b).extractLsb' 0 5 = BitVec.ofNat 5 op := by
    apply BitVec.eq_of_getLsbD_eq
    intro i hi
    rw [BitVec.getLsbD_extractLsb', Nat.zero_add, getLsbD_assemble op a b hop, BitVec.getLsbD_ofNat]
    simp [hi, show i < 8 by omega]
  simp [opField, h]; omega

namespace Laws

theorem assemble_matches_byte (op : Nat) (a : Byte) (hop : op < 32) :
    assemble op a 0 &&& rowMask .l = BitVec.ofNat 32 op := by
  apply BitVec.eq_of_getLsbD_eq
  intro i hi
  rw [BitVec.getLsbD_and, getLsbD_assemble op a 0 hop, BitVec.getLsbD_ofNat]
  have hz := testBit_of_lt_32 op hop
  have hm : ∀ j : Fin 32, (rowMask .l).getLsbD j = (decide ((j : Nat) < 8) || decide (16 ≤ (j : Nat))) := by decide
  rw [hm ⟨i, hi⟩]
  by_cases h1 : i < 8
  · simp [h1, hi]
  · by_cases h2 : i < 16
    · simp [h1, h2, hz i (by omega)]
    · simp [h1, h2, hz i (by omega)]

theorem assemble_matches_index (op k : Nat) (hop : op < 32) (hk : k < 16) :
    assemble op (BitVec.ofNat 8 k) 0 &&& rowMask .k = BitVec.ofNat 32 op := by
  have h : ∀ k : Fin 16, ∀ op : Fin 32,
      assemble op (BitVec.ofNat 8 k) 0 &&& rowMask .k = BitVec.ofNat 32 op := by decide +kernel
  exact h ⟨k, hk⟩ ⟨op, hop⟩

theorem assemble_matches_two (op : Nat) (a b : Byte) (hop : op < 32) :
    assemble op a b &&& rowMask .t2 = BitVec.ofNat 32 op := by
  apply BitVec.eq_of_getLsbD_eq
  intro i hi
  rw [BitVec.getLsbD_and, getLsbD_assemble op a b hop, BitVec.getLsbD_ofNat]
  have hz := testBit_of_lt_32 op hop
  have hm : ∀ j : Fin 32, (rowMask .t2).getLsbD j = (decide ((j : Nat) < 8) || decide (24 ≤ (j : Nat))) := by decide
  rw [hm ⟨i, hi⟩]
  by_cases h1 : i < 8
  · simp [h1, hi]
  · by_cases h2 : i < 24
    · simp [h1, hz i (by omega), show ¬ 24 ≤ i by omega]
    · simp [h1, hz i (by omega), h2, show ¬ i < 16 by omega]

end Laws

/-! ## Blocks -/

theorem Block.ext_entry (b b' : Block) (h : ∀ r c, b.entry r c = b'.entry r c) : b = b' := by
  have := fun c => And.intro (h 0 c) (And.intro (h 1 c) (And.intro (h 2 c) (h 3 c)))
  have h0 := this 0; have h1 := this 1; have h2 := this 2; have h3 := this 3
  simp only [Block.entry, Block.col, Word.byte] at h0 h1 h2 h3
  ext1 <;> ext1 <;> tauto

@[simp] theorem Block.entry_ofMatrix (f : Fin 4 → Fin 4 → Byte) (r c : Fin 4) : (Block.ofMatrix f).entry r c = f r c := by
  fin_cases r <;> fin_cases c <;> rfl

@[simp] theorem Block.entry_map (f : Byte → Byte) (b : Block) (r c : Fin 4) : (b.map f).entry r c = f (b.entry r c) := by
  fin_cases r <;> fin_cases c <;> rfl

@[simp] theorem Block.entry_xor (x y : Block) (r c : Fin 4) : (x.xor y).entry r c = x.entry r c ^^^ y.entry r c := by
  fin_cases r <;> fin_cases c <;> rfl

theorem Block.entry_eq_byte_col (b : Block) (r c : Fin 4) : (b.col c).byte r = b.entry r c := rfl

@[simp] theorem Block.col_setCol (b : Block) (n m : Fin 4) (w : Word) :
    (b.setCol n w).col m = if m = n then w else b.col m := by
  fin_cases n <;> fin_cases m <;> rfl

namespace Machine

/-! ## Packing (R61) -/

theorem unpack_pack (w : Word) : unpack (pack w) = w := by
  have h : ∀ i : Nat, (pack w).getLsbD i =
      if i < 8 then w.a3.getLsbD i else if i < 16 then w.a2.getLsbD (i - 8)
      else if i < 24 then w.a1.getLsbD (i - 16) else if i < 32 then w.a0.getLsbD (i - 24) else false := by
    intro i
    simp only [pack, BitVec.getLsbD_or, BitVec.getLsbD_shiftLeft, BitVec.getLsbD_setWidth]
    by_cases h1 : i < 8
    · simp [h1, show i < 32 by omega, show i < 16 by omega, show i < 24 by omega]
    · by_cases h2 : i < 16
      · simp [h1, h2, show i < 32 by omega, show i < 24 by omega, show i - 8 < 32 by omega,
          BitVec.getLsbD_of_ge w.a3 i (by omega)]
      · by_cases h3 : i < 24
        · simp [h1, h2, h3, show i < 32 by omega, show i - 16 < 32 by omega,
            BitVec.getLsbD_of_ge w.a3 i (by omega), BitVec.getLsbD_of_ge w.a2 (i - 8) (by omega)]
        · by_cases h4 : i < 32
          · simp [h1, h2, h3, h4, show i - 24 < 32 by omega, BitVec.getLsbD_of_ge w.a3 i (by omega),
              BitVec.getLsbD_of_ge w.a2 (i - 8) (by omega), BitVec.getLsbD_of_ge w.a1 (i - 16) (by omega)]
          · simp [h1, h2, h3, h4]
  ext1 <;> apply BitVec.eq_of_getLsbD_eq <;> intro i hi <;> simp only [unpack, BitVec.getLsbD_extractLsb', h, hi]
  · simp [show ¬ (24 + i < 8) by omega, show ¬ (24 + i < 16) by omega, show ¬ (24 + i < 24) by omega,
      show 24 + i < 32 by omega]
  · simp [show ¬ (16 + i < 8) by omega, show ¬ (16 + i < 16) by omega, show 16 + i < 24 by omega]
  · simp [show ¬ (8 + i < 8) by omega, show 8 + i < 16 by omega]
  · simp [hi]

theorem pack_unpack (v : Reg32) : pack (unpack v) = v := by
  apply BitVec.eq_of_getLsbD_eq
  intro i hi
  simp only [pack, unpack, BitVec.getLsbD_or, BitVec.getLsbD_shiftLeft, BitVec.getLsbD_setWidth, BitVec.getLsbD_extractLsb', hi]
  interval_cases i <;> simp

/-! ## GF(2^8) -/

/-- A claim about every byte, as a claim about 256 numerals. -/
theorem forall_byte (P : Byte → Prop) (h : ∀ i : Fin 256, P (BitVec.ofFin i)) (a : Byte) : P a := h a.toFin

theorem ite_xor (x y : Bool) (v : Byte) :
    (if (x ^^ y) = true then v else 0) = (if x then v else 0) ^^^ (if y then v else 0) := by
  cases x <;> cases y <;> simp

/-- Multiplication by x is linear. -/
theorem xtime_xor (a b : Byte) : xtime (a ^^^ b) = xtime a ^^^ xtime b := by
  simp only [xtime, BitVec.getLsbD_xor, BitVec.shiftLeft_xor_distrib, ite_xor]
  ac_rfl

/-- The loop of R122, unrolled: the XOR over the bits i of b of a doubled i times. -/
theorem gfMul_eq_sum (a b : Byte) :
    gfMul a b =
      (if b.getLsbD 0 then a else 0) ^^^ (if b.getLsbD 1 then xtime a else 0) ^^^
      (if b.getLsbD 2 then xtime (xtime a) else 0) ^^^ (if b.getLsbD 3 then xtime (xtime (xtime a)) else 0) ^^^
      (if b.getLsbD 4 then xtime (xtime (xtime (xtime a))) else 0) ^^^
      (if b.getLsbD 5 then xtime (xtime (xtime (xtime (xtime a)))) else 0) ^^^
      (if b.getLsbD 6 then xtime (xtime (xtime (xtime (xtime (xtime a))))) else 0) ^^^
      (if b.getLsbD 7 then xtime (xtime (xtime (xtime (xtime (xtime (xtime a)))))) else 0) := by
  simp only [gfMul, List.foldl, gfMulTurn]
  cases b.getLsbD 0 <;> cases b.getLsbD 1 <;> cases b.getLsbD 2 <;> cases b.getLsbD 3 <;> cases b.getLsbD 4 <;>
    cases b.getLsbD 5 <;> cases b.getLsbD 6 <;> cases b.getLsbD 7 <;> simp

/-- gf_mul is linear in its second argument. -/
theorem gfMul_xor_right (a b c : Byte) : gfMul a (b ^^^ c) = gfMul a b ^^^ gfMul a c := by
  simp only [gfMul_eq_sum, BitVec.getLsbD_xor, ite_xor]
  ac_rfl

/-- gf_mul is linear in its first argument. -/
theorem gfMul_xor_left (a b c : Byte) : gfMul (a ^^^ b) c = gfMul a c ^^^ gfMul b c := by
  simp only [gfMul_eq_sum, xtime_xor]
  cases c.getLsbD 0 <;> cases c.getLsbD 1 <;> cases c.getLsbD 2 <;> cases c.getLsbD 3 <;> cases c.getLsbD 4 <;>
    cases c.getLsbD 5 <;> cases c.getLsbD 6 <;> cases c.getLsbD 7 <;> simp <;> ac_rfl

end Machine
end Sys2Proof
end

