-- ==== Sys2Proof/Laws/PerInstr.lean ====
section
/-! SUPPORT. The family EncodeMatchesRow: the word of a well-formed command matches its row of opcode_table.json,
`(word AND mask) = match` (30_encoding.md R99). One lemma per constructor. -/

namespace Sys2Proof.Laws.EncodeMatchesRow

def Statement (i : Instr) : Prop :=
  i.wellFormed = true → encode i &&& rowMask (formatOf i) = BitVec.ofNat 32 (opcode i)

theorem nop : Statement .nop := fun _ => by decide
theorem keyExpand (len : Nat) : Statement (.keyExpand len) := fun _ => assemble_matches_byte _ _ (opcode_lt (.keyExpand len))
theorem encrypt (len : Nat) : Statement (.encrypt len) := fun _ => assemble_matches_byte _ _ (opcode_lt (.encrypt len))
theorem decrypt (len : Nat) : Statement (.decrypt len) := fun _ => assemble_matches_byte _ _ (opcode_lt (.decrypt len))
theorem loadState : Statement .loadState := fun _ => by decide
theorem subBytes : Statement .subBytes := fun _ => by decide
theorem invSubBytes : Statement .invSubBytes := fun _ => by decide
theorem shiftRows : Statement .shiftRows := fun _ => by decide
theorem invShiftRows : Statement .invShiftRows := fun _ => by decide
theorem mixColumns : Statement .mixColumns := fun _ => by decide
theorem invMixColumns : Statement .invMixColumns := fun _ => by decide
theorem addRoundKey (k : Nat) : Statement (.addRoundKey k) := fun h => assemble_matches_index _ _ (opcode_lt (.addRoundKey k)) (of_decide_eq_true h)
theorem encRound (k : Nat) : Statement (.encRound k) := fun h => assemble_matches_index _ _ (opcode_lt (.encRound k)) (of_decide_eq_true h)
theorem encLast (k : Nat) : Statement (.encLast k) := fun h => assemble_matches_index _ _ (opcode_lt (.encLast k)) (of_decide_eq_true h)
theorem decRound (k : Nat) : Statement (.decRound k) := fun h => assemble_matches_index _ _ (opcode_lt (.decRound k)) (of_decide_eq_true h)
theorem decLast (k : Nat) : Statement (.decLast k) := fun h => assemble_matches_index _ _ (opcode_lt (.decLast k)) (of_decide_eq_true h)
theorem lutSbox (a : Byte) : Statement (.lutSbox a) := fun _ => assemble_matches_byte _ _ (opcode_lt (.lutSbox a))
theorem lutInvSbox (a : Byte) : Statement (.lutInvSbox a) := fun _ => assemble_matches_byte _ _ (opcode_lt (.lutInvSbox a))
theorem lutRcon (r : Byte) : Statement (.lutRcon r) := fun _ => assemble_matches_byte _ _ (opcode_lt (.lutRcon r))
theorem lutGfMul (a b : Byte) : Statement (.lutGfMul a b) := fun _ => assemble_matches_two _ _ _ (opcode_lt (.lutGfMul a b))

end Sys2Proof.Laws.EncodeMatchesRow
end

