-- ==== Sys2Proof/Tests/Slice0.lean ====
section
/-! SUPPORT. Tests. Expected values are those of spec/95_test_vectors.md (V1 to V13), or written out by hand from the
encoding of 30_encoding.md. The second half holds the witnesses: for each statement of the obligations with hypotheses, a
concrete state and operands that meet them. -/

namespace Sys2Proof.Tests

open Sys2Proof Sys2Proof.Machine

/-! ## Helpers -/

/-- A block from its four register words (20_memory.md R61). -/
def blk (w0 w1 w2 w3 : Reg32) : Block := ⟨unpack w0, unpack w1, unpack w2, unpack w3⟩

/-- V1. -/
def nistKey : Block := blk 0x2B7E1516 0x28AED2A6 0xABF71588 0x09CF4F3C
def nistPlain : Block := blk 0x3243F6A8 0x885A308D 0x313198A2 0xE0370734
def nistCipher : Block := blk 0x3925841D 0x02DC09FB 0xDC118597 0x196A0B32

/-- V2: the schedule of V1's key. -/
def nistSchedule : Schedule where
  rk0 := blk 0x2b7e1516 0x28aed2a6 0xabf71588 0x09cf4f3c
  rk1 := blk 0xa0fafe17 0x88542cb1 0x23a33939 0x2a6c7605
  rk2 := blk 0xf2c295f2 0x7a96b943 0x5935807a 0x7359f67f
  rk3 := blk 0x3d80477d 0x4716fe3e 0x1e237e44 0x6d7a883b
  rk4 := blk 0xef44a541 0xa8525b7f 0xb671253b 0xdb0bad00
  rk5 := blk 0xd4d1c6f8 0x7c839d87 0xcaf2b8bc 0x11f915bc
  rk6 := blk 0x6d88a37a 0x110b3efd 0xdbf98641 0xca0093fd
  rk7 := blk 0x4e54f70e 0x5f5fc9f3 0x84a64fb2 0x4ea6dc4f
  rk8 := blk 0xead27321 0xb58dbad2 0x312bf560 0x7f8d292f
  rk9 := blk 0xac7766f3 0x19fadc21 0x28d12941 0x575c006e
  rk10 := blk 0xd014f9a8 0xc9ee2589 0xe13f0cc8 0xb6630ca6

/-- A core as reset leaves one with the hardware unit. -/
def fresh : State where
  key := Block.zero
  din := Block.zero
  state := Block.zero
  rk := Schedule.zero
  keyValid := false
  lut := 0
  rksel := 0
  err := 0
  busy := false
  wdrop := false
  path := .hw
  pending := none
  turns := 0
  draws := 0
  host := []
  reads := []

/-- V1's key expanded, with the given STATE and DIN. -/
def keyed (b : Block) : State := { fresh with key := nistKey, rk := nistSchedule, keyValid := true, state := b, din := b }

/-- A core in a busy window with the given turns and host operations. -/
def waiting (turns : Nat) (host : List HostOp) : State :=
  { keyed nistPlain with busy := true, pending := some ⟨{ state := some nistCipher }, .success⟩, turns := turns, host := host }

/-- STATE and ERR once a command has completed. -/
def outState (i : Instr) (s : State) : Option (Block × BitVec 4) := (committed i s).map fun t => (t.state, t.err)

/-- LUT_RESULT and ERR once a command has completed. -/
def outLut (i : Instr) (s : State) : Option (Byte × BitVec 4) := (committed i s).map fun t => (t.lut, t.err)

/-- ERR once a command word has completed. -/
def outErr (v : Reg32) (s : State) : Option (BitVec 4) :=
  match acceptWord v s with
  | .next t => some (complete t).err
  | .fault _ => none
  | .refused _ => none

/-! ## WellFormed: each check refuses an ill-formed term -/

theorem test_wf_keyExpand_len : (Instr.keyExpand 256).wellFormed = false := by decide
theorem test_wf_encrypt_len : (Instr.encrypt 256).wellFormed = false := by decide
theorem test_wf_decrypt_len : (Instr.decrypt 300).wellFormed = false := by decide
theorem test_wf_addRoundKey_index : (Instr.addRoundKey 16).wellFormed = false := by decide
theorem test_wf_encRound_index : (Instr.encRound 16).wellFormed = false := by decide
theorem test_wf_encLast_index : (Instr.encLast 16).wellFormed = false := by decide
theorem test_wf_decRound_index : (Instr.decRound 17).wellFormed = false := by decide
theorem test_wf_decLast_index : (Instr.decLast 16).wellFormed = false := by decide

/-! ## Decoding: one word for each command (V11, V10; R92, R93) -/

theorem test_decode_nop : decode 0x00000000 = .command .nop := by decide
theorem test_decode_keyExpand : decode 0x00001001 = .command (.keyExpand 16) := by decide
theorem test_decode_encrypt : decode 0x00001002 = .command (.encrypt 16) := by decide
theorem test_decode_decrypt : decode 0x00001003 = .command (.decrypt 16) := by decide
theorem test_decode_loadState : decode 0x00000004 = .command .loadState := by decide
theorem test_decode_subBytes : decode 0x00000005 = .command .subBytes := by decide
theorem test_decode_invSubBytes : decode 0x00000006 = .command .invSubBytes := by decide
theorem test_decode_shiftRows : decode 0x00000007 = .command .shiftRows := by decide
theorem test_decode_invShiftRows : decode 0x00000008 = .command .invShiftRows := by decide
theorem test_decode_mixColumns : decode 0x00000009 = .command .mixColumns := by decide
theorem test_decode_invMixColumns : decode 0x0000000A = .command .invMixColumns := by decide
theorem test_decode_addRoundKey : decode 0x00000A0B = .command (.addRoundKey 10) := by decide
theorem test_decode_encRound : decode 0x0000050C = .command (.encRound 5) := by decide
theorem test_decode_encLast : decode 0x00000A0D = .command (.encLast 10) := by decide
theorem test_decode_decRound : decode 0x0000090E = .command (.decRound 9) := by decide
theorem test_decode_decLast : decode 0x0000000F = .command (.decLast 0) := by decide
theorem test_decode_lutSbox : decode 0x00005310 = .command (.lutSbox 0x53) := by decide
theorem test_decode_lutInvSbox : decode 0x0000ED11 = .command (.lutInvSbox 0xED) := by decide
theorem test_decode_lutRcon : decode 0x00000A12 = .command (.lutRcon 10) := by decide
theorem test_decode_lutGfMul : decode 0x00835713 = .command (.lutGfMul 0x57 0x83) := by decide

/-- The illegal words of V11. -/
theorem test_decode_illegal_words :
    decode 0x00000014 = .illegal .reservedOpcode ∧ decode 0x0000001F = .illegal .reservedOpcode ∧
    decode 0xFFFFFFFF = .illegal .reservedOpcode ∧ decode 0x00000020 = .illegal .mustBeZeroBitSet ∧
    decode 0x00000100 = .illegal .mustBeZeroBitSet ∧ decode 0x00001022 = .illegal .mustBeZeroBitSet ∧
    decode 0x01001002 = .illegal .mustBeZeroBitSet ∧ decode 0x00011002 = .illegal .mustBeZeroBitSet ∧
    decode 0x0000100B = .illegal .mustBeZeroBitSet ∧ decode 0x00001F0B = .illegal .mustBeZeroBitSet ∧
    decode 0x00010012 = .illegal .mustBeZeroBitSet ∧ decode 0x01000013 = .illegal .mustBeZeroBitSet := by decide

/-- The words of V11 that are legal although the command raises an error. -/
theorem test_decode_legal_words_that_raise :
    decode 0x00000B0B = .command (.addRoundKey 11) ∧ decode 0x00000F02 = .command (.encrypt 15) ∧
    decode 0x00000001 = .command (.keyExpand 0) := by decide

/-- The encoder against V11. -/
theorem test_encode_words :
    encode (.keyExpand 16) = 0x00001001 ∧ encode (.decRound 9) = 0x0000090E ∧
    encode (.lutGfMul 0x57 0x83) = 0x00835713 ∧ encode .invMixColumns = 0x0000000A := by decide

theorem test_decodeTableWord : decodeTableWord 32 0x1001 = some (.keyExpand 16) ∧ decodeTableWord 8 0x1F04 = some .loadState ∧
    decodeTableWord 32 0x14 = none ∧ decodeTableWord 64 0x100000000 = none := by decide

/-- The host's placement: the first step after reset runs the word. -/
theorem test_first_step_runs_the_word :
    step (State.reset.withFetchWord 32 0x1001) = exec (.keyExpand 16) State.reset := rfl

/-! ## Tables and lookups (V8) -/

theorem test_sbox_spots : sbox 0x00 = 0x63 ∧ sbox 0x09 = 0x01 ∧ sbox 0x53 = 0xED ∧ sbox 0xFF = 0x16 := by decide
theorem test_invSbox_spots :
    invSbox 0x00 = 0x52 ∧ invSbox 0x09 = 0x40 ∧ invSbox 0x16 = 0xFF ∧ invSbox 0xED = 0x53 := by decide
theorem test_gfMul_spots :
    gfMul 0x57 0x83 = 0xC1 ∧ gfMul 0x57 0x13 = 0xFE ∧ gfMul 0x80 0x02 = 0x1B ∧ gfMul 0xFF 0xFF = 0x13 := by decide
theorem test_gfMul_coefficients :
    gfMul 3 0x80 = 0x9B ∧ gfMul 9 0xFF = 0x46 ∧ gfMul 11 0x57 = 0x77 ∧ gfMul 13 0x80 = 0xDA ∧
    gfMul 14 0xFF = 0x8D := by decide

theorem test_lutSbox : outLut (.lutSbox 0x53) fresh = some (0xED, 0) := by decide
theorem test_lutInvSbox : outLut (.lutInvSbox 0x63) { fresh with lut := 7 } = some (0, 0) := by decide
theorem test_lutRcon : outLut (.lutRcon 9) fresh = some (0x1B, 0) := by decide
theorem test_lutRcon_outside :
    outLut (.lutRcon 0) { fresh with lut := 7 } = some (7, 5) ∧ outLut (.lutRcon 11) { fresh with lut := 7 } = some (7, 5) := by
  decide
theorem test_lutGfMul : outLut (.lutGfMul 0x57 0x83) fresh = some (0xC1, 0) := by decide

/-! ## Key expansion (V2) -/

theorem test_keyExpand :
    (committed (.keyExpand 16) { fresh with key := nistKey, err := 5 }).map (fun t => (t.rk, t.keyValid, t.err)) =
      some (nistSchedule, true, 0) := by decide +kernel
theorem test_keyExpand_bad_length :
    (committed (.keyExpand 24) (keyed nistPlain)).map (fun t => (t.rk, t.keyValid, t.err)) = some (nistSchedule, true, 1) := by
  decide +kernel

/-! ## Cipher and transform commands (V1, V4, V5, V9, V10) -/

theorem test_encrypt : outState (.encrypt 16) (keyed nistPlain) = some (nistCipher, 0) := by decide +kernel
theorem test_encrypt_order_of_checks : outState (.encrypt 15) fresh = some (Block.zero, 2) := by decide
theorem test_decrypt : outState (.decrypt 16) (keyed nistCipher) = some (nistPlain, 0) := by decide +kernel
theorem test_decrypt_without_key : outState (.decrypt 16) fresh = some (Block.zero, 3) := by decide
theorem test_loadState : outState .loadState { fresh with din := nistPlain } = some (nistPlain, 0) := by decide
theorem test_subBytes : outState .subBytes (keyed (blk 0x193de3be 0xa0f4e22b 0x9ac68d2a 0xe9f84808)) =
    some (blk 0xd42711ae 0xe0bf98f1 0xb8b45de5 0x1e415230, 0) := by decide
theorem test_invSubBytes : outState .invSubBytes (keyed (blk 0xd42711ae 0xe0bf98f1 0xb8b45de5 0x1e415230)) =
    some (blk 0x193de3be 0xa0f4e22b 0x9ac68d2a 0xe9f84808, 0) := by decide
theorem test_shiftRows : outState .shiftRows (keyed (blk 0x00010203 0x04050607 0x08090a0b 0x0c0d0e0f)) =
    some (blk 0x00050a0f 0x04090e03 0x080d0207 0x0c01060b, 0) := by decide
theorem test_invShiftRows : outState .invShiftRows (keyed (blk 0x00010203 0x04050607 0x08090a0b 0x0c0d0e0f)) =
    some (blk 0x000d0a07 0x04010e0b 0x0805020f 0x0c090603, 0) := by decide
theorem test_mixColumns : outState .mixColumns (keyed (blk 0xdb135345 0xf20a225c 0xd4d4d4d5 0x2d26314c)) =
    some (blk 0x8e4da1bc 0x9fdc589d 0xd5d5d7d6 0x4d7ebdf8, 0) := by decide
theorem test_invMixColumns : outState .invMixColumns (keyed (blk 0xdb135345 0xf20a225c 0xd4d4d4d5 0x2d26314c)) =
    some (blk 0x32a41d55 0xaec36982 0xddd9dfda 0xa05050d6, 0) := by decide
theorem test_addRoundKey : outState (.addRoundKey 0) (keyed nistPlain) =
    some (blk 0x193de3be 0xa0f4e22b 0x9ac68d2a 0xe9f84808, 0) := by decide
theorem test_addRoundKey_bad_index : outState (.addRoundKey 11) fresh = some (Block.zero, 5) := by decide
theorem test_encRound : outState (.encRound 1) (keyed (blk 0x193de3be 0xa0f4e22b 0x9ac68d2a 0xe9f84808)) =
    some (blk 0xa49c7ff2 0x689f352b 0x6b5bea43 0x026a5049, 0) := by decide
theorem test_encRound_without_key : outState (.encRound 1) fresh = some (Block.zero, 3) := by decide
theorem test_encLast : outState (.encLast 10) (keyed (blk 0xeb40f21e 0x592e3884 0x8ba113e7 0x1bc342d2)) =
    some (nistCipher, 0) := by decide
theorem test_decRound : outState (.decRound 9) (keyed (blk 0xe9317db5 0xcb322c72 0x3d2e895f 0xaf090794)) =
    some (blk 0x876e46a6 0xf24ce78c 0x4d904ad8 0x97ecc395, 0) := by decide
theorem test_decLast : outState (.decLast 0) (keyed (blk 0xd4bf5d30 0xe0b452ae 0xb84111f1 0x1e2798e5)) =
    some (nistPlain, 0) := by decide
theorem test_decLast_bad_index : outState (.decLast 15) fresh = some (Block.zero, 5) := by decide
theorem test_nop : outState .nop { keyed nistPlain with err := 4 } = some (nistPlain, 0) := by decide

/-- V12: the word is checked before the length, the length before the schedule. -/
theorem test_error_words :
    outErr 0x00000F22 fresh = some 4 ∧ outErr 0x00000F02 fresh = some 2 ∧ outErr 0x00001002 fresh = some 3 ∧
    outErr 0x00000B0C fresh = some 5 ∧ outErr 0x00000014 fresh = some 4 := by decide

/-! ## The register window (V13) -/

theorem test_status_fresh : readValue .status fresh = 0x4 := by decide
theorem test_status_after_keyExpand : readValue .status (keyed nistPlain) = 0x6 := by decide
theorem test_status_error : readValue .status { fresh with err := 3 } = 0x304 := by decide
theorem test_status_busy_bits :
    (readValue .status (waiting 0 [])).getLsbD 0 = true ∧ (readValue .status (waiting 0 [])).getLsbD 2 = true ∧
    (readValue .status (waiting 0 [])).getLsbD 3 = false := by
  simp [readValue, statusView, statusBits, waiting, keyed, fresh, hwacc]
theorem test_dout0 : readValue (regAt 0x30) (keyed nistPlain) = 0x3243F6A8 := by decide
theorem test_rkdata : readValue (regAt 0x50) { keyed nistPlain with rksel := 10 } = 0xB6630CA6 := by decide
theorem test_rkdata_eleven : readValue (regAt 0x44) { keyed nistPlain with rksel := 11 } = 0 := by decide
theorem test_rksel_write : (writeReg (regAt 0x40) 0xFFFFFFFA fresh).rksel = 0xA := by decide
theorem test_dout_write_ignored : writeReg (regAt 0x30) 0x12345678 fresh = fresh := by decide
theorem test_busy_write_dropped :
    (writeReg (regAt 0x20) 5 (waiting 1 [])).wdrop = true ∧ (writeReg (regAt 0x20) 5 (waiting 1 [])).din = nistPlain := by decide
theorem test_busy_key_read : readValue (regAt 0x10) (waiting 1 []) = 0x2B7E1516 := by decide
theorem test_wdrop_cleared : (writeReg (regAt 0x04) 0xFFFFFFFF { waiting 1 [] with wdrop := true }).wdrop = false := by decide
theorem test_byte_access_faults :
    step { fresh with host := [.read 8 (.window 0x00)] } = .fault (.unsupportedWidth ⟨.read, 8, .window 0x00⟩) := rfl
theorem test_misaligned_access_faults :
    step { fresh with host := [.write 32 (.window 0x02) 0] } = .fault (.misaligned ⟨.write, 32, .window 0x02⟩) := rfl
theorem test_outside_access_faults :
    step { fresh with host := [.read 32 (.window 0x100)] } = .fault (.outsideWindow ⟨.read, 32, .window 0x100⟩) := rfl
theorem test_step_write_key :
    step { fresh with host := [.write 32 (.window 0x10) 0x2B7E1516] } =
      .next { fresh with key := blk 0x2B7E1516 0 0 0 } := rfl
theorem test_step_completion :
    step (waiting 0 []) = .next { keyed nistPlain with state := nistCipher } := rfl

/-! ## Witnesses: a state and operands that meet the hypotheses of a statement, one for each clause, at the ends of its range -/

theorem witness_ResetAbortsThePendingCommand :
    (waiting 1 [.reset]).busy = true ∧ (waiting 1 [.reset]).turns ≠ 0 ∧ (waiting 1 [.reset]).host = .reset :: [] := by decide

/-- A reset core with an illegal word pending. -/
def pendingError : State := { State.reset with busy := true, pending := some (Result.raise .illegalCommand) }

/-- The invariant holds in a busy window, and the completion is a step from there. -/
theorem witness_EveryStepKeepsTheCoreInvariant : pendingError.Inv ∧ ∃ t, step pendingError = .next t ∧ t.err = 4 := by
  refine ⟨⟨rfl, ?_, (by decide), nofun, fun _ => rfl, rfl⟩, _, rfl, rfl⟩
  intro r hr
  cases hr
  exact ⟨fun _ => rfl, .inl ⟨rfl, rfl⟩⟩

theorem witness_DecodeOfEncodeIsTheCommand :
    (Instr.keyExpand 0).wellFormed = true ∧ (Instr.keyExpand 255).wellFormed = true ∧
    (Instr.addRoundKey 0).wellFormed = true ∧ (Instr.addRoundKey 15).wellFormed = true ∧
    (Instr.lutGfMul 0xFF 0xFF).wellFormed = true := by decide

theorem witness_EncodeOfDecodeIsTheWord :
    decode 0x0000FF01 = .command (.keyExpand 255) ∧ decode 0x00000F0F = .command (.decLast 15) := by decide

/-- Both sides of the equivalence occur. -/
theorem witness_DecodeFollowsMaskAndMatch :
    (0x0000FF01 : Reg32) &&& (fixedZero (formatOf (.keyExpand 0)) ||| 0x1F) = BitVec.ofNat 32 (opcode (.keyExpand 0)) ∧
    (0x0001FF01 : Reg32) &&& (fixedZero (formatOf (.keyExpand 0)) ||| 0x1F) ≠ BitVec.ofNat 32 (opcode (.keyExpand 0)) := by decide

theorem witness_IllegalWordsAreAcceptedAndRaiseIllegalCommand :
    (∃ why, decode 0x00000014 = .illegal why) ∧ (∃ why, decode 0x00000033 = .illegal why) ∧
    (∃ j, opcode j = opField 0x00000033 ∧ 0x00000033 &&& fixedZero (formatOf j) ≠ 0) :=
  ⟨⟨.reservedOpcode, by decide⟩, ⟨.mustBeZeroBitSet, by decide⟩, ⟨.lutGfMul 0 0, by decide⟩⟩

theorem witness_StepRunsTheDecodedCommand :
    (BusAddr.window 0x00).offset = some 0x00 ∧ (BusAddr.absolute Config.base).offset = some 0x00 ∧
    { fresh with host := [.write 32 (.window 0x00) 0x1001] }.busy = false ∧
    decode 0x1001 = .command (.keyExpand 16) ∧ decode 0x14 = .illegal .reservedOpcode := by
  refine ⟨rfl, by simp [BusAddr.offset], rfl, by decide, by decide⟩

theorem witness_FetchWordIsRunByTheNextStep : decodeTableWord 32 0x0000000F = some (.decLast 0) := by decide

/-- Two states that agree on the snapshot and differ elsewhere. -/
theorem witness_ResultDependsOnlyOnWordAndSnapshot :
    let s := keyed nistPlain
    let s' := { keyed nistPlain with path := .sw, lut := 9, err := 3, rksel := 7 }
    s ≠ s' ∧ s'.key = s.key ∧ s'.din = s.din ∧ s'.state = s.state ∧ s'.rk = s.rk ∧ s'.keyValid = s.keyValid := by decide

theorem witness_CompletionCommitsPending :
    let s (n : Nat) (ops : List HostOp) := (waiting n ops)
    (s 0 []).busy = true ∧ (s 0 []).pending = some ⟨{ state := some nistCipher }, .success⟩ ∧ (s 5 []).host = [] ∧
    (s 0 [.reset]).turns = 0 ∧ ∃ rest, (s 5 [.poll, .reset]).host = .poll :: rest :=
  ⟨rfl, rfl, rfl, rfl, [.reset], rfl⟩

theorem witness_HostOperationsAreServedInOrder :
    { fresh with host := [.poll] }.host = .poll :: [] ∧ { fresh with host := [.poll] }.busy = false ∧
    (waiting 1 [.reset]).host = .reset :: [] ∧ (waiting 1 [.reset]).busy = true ∧ HostOp.reset ≠ .poll ∧
    (waiting 1 [.reset]).turns = 0 + 1 := by decide

/-- A busy core whose host has both kinds of access still to make. -/
theorem witness_EveryBusyWindowEnds :
    let s := waiting 3 [.read 32 (.window 0xFC), .write 32 (.window 0x00) 0]
    s.busy = true ∧ (∀ w a, HostOp.read w a ∈ s.host → ∃ r, checkAccess ⟨.read, w, a⟩ = .ok r) ∧
    (∀ w a v, HostOp.write w a v ∈ s.host → ∃ r, checkAccess ⟨.write, w, a⟩ = .ok r) := by
  refine ⟨rfl, ?_, ?_⟩
  · intro w a h
    simp [waiting] at h
    exact ⟨.reserved, by rw [h.1, h.2]; rfl⟩
  · intro w a v h
    simp [waiting] at h
    exact ⟨.ctrl, by rw [h.1, h.2.1]; rfl⟩

theorem witness_IdleCoreHoldsItsState : fresh.AtEnd := ⟨rfl, rfl⟩

theorem witness_ErrorChangesOnlyErr :
    ∃ t r, acceptWord 0x14 fresh = .next t ∧ t.pending = some r ∧ r.err ≠ .success := ⟨_, _, rfl, rfl, by decide⟩

/-- Every length but 16 is a case of the second clause; the first has no hypothesis. -/
theorem witness_KeyExpandWritesTheScheduleOfKey : 15 ≠ 16 ∧ 17 ≠ 16 := by decide

theorem witness_EncryptAndDecryptWriteTheirBlockToState : (keyed nistPlain).keyValid = true := rfl

/-- One case of each disjunct, with the value of V9 and V5. -/
theorem witness_TransformCommandsWriteState :
    nistPlain = (keyed nistPlain).din ∧
    blk 0x63636363 0x63636363 0x63636363 0x63636363 = subBytes fresh.state ∧
    blk 0x52525252 0x52525252 0x52525252 0x52525252 = invSubBytes fresh.state ∧
    blk 0x00050a0f 0x04090e03 0x080d0207 0x0c01060b = shiftRows (keyed (blk 0x00010203 0x04050607 0x08090a0b 0x0c0d0e0f)).state ∧
    blk 0x000d0a07 0x04010e0b 0x0805020f 0x0c090603 = invShiftRows (keyed (blk 0x00010203 0x04050607 0x08090a0b 0x0c0d0e0f)).state ∧
    Block.zero = mixColumns fresh.state ∧ Block.zero = invMixColumns fresh.state := by decide

/-- The first and the last round key, KEY_VALID = 1; the five disjuncts name the value by the functions of `test_addRoundKey`,
`test_encRound`, `test_encLast`, `test_decRound` and `test_decLast`. -/
theorem witness_KeyedCommandsWriteState :
    (keyed nistPlain).keyValid = true ∧ (keyed nistPlain).rk.roundKey 0 = some nistSchedule.rk0 ∧
    (keyed nistPlain).rk.roundKey 10 = some nistSchedule.rk10 := by decide

theorem witness_LookupCommandsWriteLutResult :
    (0x63 : Byte) = sbox 0x00 ∧ (0x52 : Byte) = invSbox 0x00 ∧ rcon (1 : Byte).toNat = some 0x01 ∧
    rcon (10 : Byte).toNat = some 0x36 ∧ (0xC1 : Byte) = gfMul 0x57 0x83 := by decide

/-- Each of the three hypotheses on a change occurs. -/
theorem witness_CommandsWriteOnlyTheirOwnState :
    (∃ t, exec .subBytes fresh = .next t ∧ (complete t).state ≠ fresh.state) ∧
    (∃ t, exec (.keyExpand 16) fresh = .next t ∧ (complete t).keyValid ≠ fresh.keyValid) ∧
    (∃ t, exec (.lutRcon 1) fresh = .next t ∧ (complete t).lut ≠ fresh.lut) :=
  ⟨⟨_, rfl, by decide⟩, ⟨_, rfl, by decide⟩, ⟨_, rfl, by decide⟩⟩

theorem witness_SboxIsTheAffineTransformOfTheInverse :
    (0x53 : Byte) ≠ 0 ∧ ((0 : Byte) = 0 ∧ (0 : Byte) = 0) ∧ gfMul 0x53 0xCA = 1 := by decide

/-- The ranges of the clauses meet at 0, 1, 9, 10 and 11. -/
theorem witness_RconIsTheSuccessivePowersOfX :
    (1 ≤ 1 ∧ 1 ≤ 9) ∧ (1 ≤ 9 ∧ 9 ≤ 9) ∧ rcon 0 = none ∧ rcon 11 = none ∧ rcon 10 ≠ none := by decide

theorem witness_KeyExpansionFollowsTheRecurrence :
    (4 ≤ 4 ∧ 4 ≤ 43 ∧ 4 % 4 = 0) ∧ (4 ≤ 40 ∧ 40 ≤ 43 ∧ 40 % 4 = 0) ∧ (4 ≤ 5 ∧ 5 ≤ 43 ∧ 5 % 4 ≠ 0) ∧
    (4 ≤ 43 ∧ 43 ≤ 43 ∧ 43 % 4 ≠ 0) ∧ 10 ≤ 10 := by decide

theorem witness_DecryptCommandRestoresTheEncryptedBlock : (keyed nistPlain).keyValid = true := rfl

theorem witness_PackIsBigEndian :
    fresh.busy = false ∧ fresh.rk.roundKey fresh.rksel.toNat = some Block.zero ∧
    { fresh with rksel := 10 }.rk.roundKey { fresh with rksel := 10 }.rksel.toNat = some Block.zero := by decide

theorem witness_WindowReadsFollowTheRegisterMap :
    fresh.busy = false ∧ (0x58 ≤ 0x58 ∧ 0x58 ≤ 0xFC) ∧ (0x58 ≤ 0xFC ∧ 0xFC ≤ 0xFC) ∧
    { fresh with rksel := 10 }.rk.roundKey { fresh with rksel := 10 }.rksel.toNat = some Block.zero ∧
    10 < { fresh with rksel := 11 }.rksel.toNat := by decide

theorem witness_StatusShowsItsFields : fresh.busy = false ∧ (waiting 0 []).busy = true := by decide

theorem witness_BusyReadsAreFreeDraws :
    (waiting 1 []).busy = true ∧ (∃ n, WindowReg.dout 3 = .dout n) ∧ ∃ n, WindowReg.rkdata 0 = .rkdata n :=
  ⟨rfl, ⟨3, rfl⟩, 0, rfl⟩

theorem witness_ReadsHaveNoSideEffect : fresh.busy = false ∧ (waiting 1 []).busy = true := by decide

theorem witness_BusyWritesAreDroppedAndSetWdrop :
    (waiting 1 []).busy = true ∧ (∃ n, WindowReg.key 0 = .key n) ∧ (∃ n, WindowReg.din 3 = .din n) ∧
    (∃ n, WindowReg.dout 0 = .dout n) ∧ ∃ n, WindowReg.rkdata 3 = .rkdata n :=
  ⟨rfl, ⟨0, rfl⟩, ⟨3, rfl⟩, ⟨0, rfl⟩, 3, rfl⟩

theorem witness_KeyAndDinReadBackWhatWasWritten :
    fresh.busy = false ∧ unpack 0x2B7E1516 = (keyed nistPlain).key.col 0 ∧ unpack 0x3243F6A8 = (keyed nistPlain).din.col 0 := by
  decide

theorem witness_RkselSelectsTheRoundKeyShown :
    fresh.busy = false ∧ (waiting 0 []).busy = true ∧ fresh.rk.roundKey 10 ≠ none ∧ fresh.rk.roundKey 11 = none := by decide

theorem witness_ReservedOffsetsReadZeroAndIgnoreWrites :
    regAt 0x08 = .reserved ∧ regAt 0x0C = .reserved ∧ regAt 0x58 = .reserved ∧ regAt 0xFC = .reserved ∧
    regAt 0x54 = .lut := by decide

/-- A case of each refused kind of access, and the two ends of the window. BASE has no value in the model; an address below
it exists when it is not 0. -/
theorem witness_UnsupportedAccessesFault :
    8 ≠ 32 ∧ 16 ≠ 32 ∧ (BusAddr.window 0x02).offset = some 0x02 ∧ 0x02 % 4 ≠ 0 ∧
    (BusAddr.window 0x100).offset = some 0x100 ∧ 0x100 ≤ 0x100 ∧ (BusAddr.window 0xFC).offset = some 0xFC ∧
    0xFC % 4 = 0 ∧ 0xFC < 0x100 ∧ (BusAddr.absolute (Config.base + 0x00)).offset = some 0x00 ∧
    (0 < Config.base → (BusAddr.absolute 0).offset = none) := by
  refine ⟨by decide, by decide, rfl, by decide, rfl, by decide, rfl, by decide, by decide, by simp [BusAddr.offset], fun h => ?_⟩
  simp [BusAddr.offset]
  omega

theorem witness_BusAddressesReachTheWindowAtBase :
    (0 < Config.base → ∃ a, a < Config.base) ∧ Config.base + 256 ≤ Config.base + 256 := ⟨fun h => ⟨0, h⟩, le_rfl⟩

/-- KEY and DIN change by a write, and KEY by a reset. -/
theorem witness_OnlyHostWritesChangeKeyAndDin :
    (∃ t, step { fresh with host := [.write 32 (.window 0x1C) 1] } = .next t ∧ t.key ≠ fresh.key) ∧
    (∃ t, step { fresh with host := [.write 32 (.window 0x20) 1] } = .next t ∧ t.din ≠ fresh.din) ∧
    (∃ t, step { keyed nistPlain with host := [.reset] } = .next t ∧ t.key ≠ nistKey ∧ t.din ≠ nistPlain) :=
  ⟨⟨_, rfl, by decide⟩, ⟨_, rfl, by decide⟩, ⟨_, rfl, by decide⟩⟩

/-- STATE and ERR change by a completion; KEY_VALID is cleared by a reset from a state that meets the invariant. -/
theorem witness_OnlyCompletionChangesTheResults :
    (∃ t, step { waiting 0 [] with err := 5 } = .next t ∧ t.state ≠ (waiting 0 []).state ∧ t.err ≠ 5) ∧
    (∃ s t : State, s.Inv ∧ s.keyValid = true ∧ step s = .next t ∧ t.keyValid = false) := by
  refine ⟨⟨_, rfl, by decide⟩, { State.reset with rk := keyExpansion Block.zero, keyValid := true, host := [.reset] }, _,
    ⟨rfl, ?_, ?_, fun _ => ⟨_, rfl⟩, nofun, rfl⟩, rfl, rfl, rfl⟩
  · intro r h
    cases h
  · decide

/-- WDROP is set by a dropped write, cleared by a STATUS write in a busy window, and cleared by reset. -/
theorem witness_OnlyDroppedWritesAndClearsChangeWdrop :
    (∃ t, step (waiting 1 [.write 32 (.window 0x00) 0]) = .next t ∧ t.wdrop = true) ∧
    (∃ t, step { waiting 1 [.write 32 (.window 0x04) 8] with wdrop := true } = .next t ∧ t.wdrop = false) ∧
    (∃ t, step { fresh with wdrop := true, host := [.reset] } = .next t ∧ t.wdrop = false) ∧
    (8 : Reg32).getLsbD 3 = true :=
  ⟨⟨_, rfl, by decide⟩, ⟨_, rfl, by decide⟩, ⟨_, rfl, by decide⟩, by decide⟩

/-- A reset from a state with the other PATH than the one latched changes it. -/
theorem witness_PathChangesOnlyAtReset :
    ∃ t, step { State.reset with host := [.reset] } = .next t ∧ t.path = State.reset.path := ⟨_, rfl, rfl⟩

/-- A host at the front of a command it then polls for, and one that is polling. -/
theorem witness_WaitingHostNeverHasAWriteDropped :
    { fresh with host := [.write 32 (.window 0x10) 1, .write 32 (.window 0x00) 1, .poll] }.Polled ∧
    (waiting 1 [.poll, .read 32 (.window 0x30)]).Polled ∧ fresh.wdrop = false := ⟨rfl, rfl, rfl⟩

theorem witness_RunCommandIsAcceptCompletePoll :
    let s := { fresh with host := [.write 32 (.window 0x00) (encode .subBytes), .poll, .reset] }
    s.busy = false ∧ Instr.subBytes.wellFormed = true ∧
    ∃ t rest, s.host = .write 32 (.window 0x00) (encode .subBytes) :: .poll :: rest ∧
      committed .subBytes { s with host := rest } = some t := ⟨rfl, rfl, _, [.reset], rfl, rfl⟩

/-- Two states with different keys, data, lookup arguments and written words. -/
theorem witness_ControlDoesNotDependOnKeyOrData :
    let s := { fresh with host := [.write 32 (.window 0x10) 1, .write 32 (.window 0x00) 0x00005310] }
    let s' := { fresh with
      key := nistKey, din := nistPlain, lut := 3
      host := [.write 32 (.window 0x10) 2, .write 32 (.window 0x00) 0x0000FF10] }
    s ≠ s' ∧ s.public = s'.public := by decide

/-- BUSY rises at an acceptance, and falls at a completion and at a reset. -/
theorem witness_OnlyAcceptanceCompletionAndResetChangeBusy :
    (∃ t, step { fresh with host := [.write 32 (.window 0x00) 0] } = .next t ∧ t.busy ≠ fresh.busy) ∧
    (∃ t, step (waiting 0 []) = .next t ∧ t.busy ≠ (waiting 0 []).busy) ∧
    (∃ t, step (waiting 1 [.reset]) = .next t ∧ t.busy ≠ (waiting 1 [.reset]).busy) :=
  ⟨⟨_, rfl, by decide⟩, ⟨_, rfl, by decide⟩, ⟨_, rfl, by decide⟩⟩

/-- RKSEL changes by a write and by a reset. -/
theorem witness_OnlyHostWritesChangeRksel :
    (∃ t, step { fresh with host := [.write 32 (.window 0x40) 0xFFFFFFFA] } = .next t ∧ t.rksel ≠ fresh.rksel) ∧
    (∃ t, step { fresh with rksel := 10, host := [.reset] } = .next t ∧ t.rksel ≠ 10) :=
  ⟨⟨_, rfl, by decide⟩, ⟨_, rfl, by decide⟩⟩

end Sys2Proof.Tests
end

section
/-! The register window and the step, said once for the statements about the state elements: which register an offset
names, what a write to each register does, the fields of STATUS, and what changes BUSY, WDROP and PATH. -/

namespace Sys2Proof.Machine

/-! ## The registers at their offsets (R37) -/

@[simp] theorem regAt_key (n : Fin 4) : regAt (0x10 + 4 * n) = .key n := by fin_cases n <;> rfl
@[simp] theorem regAt_din (n : Fin 4) : regAt (0x20 + 4 * n) = .din n := by fin_cases n <;> rfl
@[simp] theorem regAt_rkdata (n : Fin 4) : regAt (0x44 + 4 * n) = .rkdata n := by fin_cases n <;> rfl
@[simp] theorem regAt_status : regAt 0x04 = .status := rfl
@[simp] theorem regAt_rksel : regAt 0x40 = .rksel := rfl

/-- The reserved offsets of R44; every offset above LUT is one. -/
theorem regAt_reserved (off : Nat) (h : off = 0x08 ∨ off = 0x0C ∨ 0x58 ≤ off) : regAt off = .reserved := by
  unfold regAt
  split <;> simp_all

/-! ## Writes to each register (R272) -/

/-- R336: the registers whose writes are dropped under BUSY. -/
theorem busWrite_of_busy (r : WindowReg) (v : Reg32) (s : State) (hb : s.busy = true)
    (hr : r = .ctrl ∨ r = .rksel ∨ ∃ n, r = .key n ∨ r = .din n) : busWrite r v s = .next (dropWrite s) := by
  rcases hr with rfl | rfl | ⟨n, rfl | rfl⟩ <;> simp [busWrite, writeReg, hb]

/-- With BUSY = 0 a CTRL write is an acceptance (R35). -/
theorem busWrite_ctrl_of_idle (v : Reg32) (s : State) (hb : s.busy = false) :
    busWrite .ctrl v s = .next (accept (finish (wordRule v s)) s) := by
  simp [busWrite, hb, acceptWord_eq_accept]

theorem busWrite_key_of_idle (n : Fin 4) (v : Reg32) (s : State) (hb : s.busy = false) :
    busWrite (.key n) v s = .next { s with key := s.key.setCol n (unpack v) } := by
  simp [busWrite, writeReg, hb]

theorem busWrite_din_of_idle (n : Fin 4) (v : Reg32) (s : State) (hb : s.busy = false) :
    busWrite (.din n) v s = .next { s with din := s.din.setCol n (unpack v) } := by
  simp [busWrite, writeReg, hb]

theorem busWrite_rksel_of_idle (v : Reg32) (s : State) (hb : s.busy = false) :
    busWrite .rksel v s = .next { s with rksel := v.extractLsb' 0 4 } := by
  simp [busWrite, writeReg, hb]

/-- R38: a STATUS write is never dropped, and clears WDROP when bit 3 is 1. -/
theorem busWrite_status (v : Reg32) (s : State) :
    busWrite .status v s = .next { s with wdrop := s.wdrop && !v.getLsbD 3 } := by
  cases hv : v.getLsbD 3 <;> simp only [busWrite, writeReg, hv] <;> simp

@[simp] theorem busWrite_rkdata (n : Fin 4) (v : Reg32) (s : State) : busWrite (.rkdata n) v s = .next s := rfl
@[simp] theorem busWrite_reserved (v : Reg32) (s : State) : busWrite .reserved v s = .next s := rfl

/-! ## Reads (R271) -/

@[simp] theorem readValue_status (s : State) : readValue .status s = statusView s := rfl
@[simp] theorem readValue_key (n : Fin 4) (s : State) : readValue (.key n) s = pack (s.key.col n) := rfl
@[simp] theorem readValue_din (n : Fin 4) (s : State) : readValue (.din n) s = pack (s.din.col n) := rfl
@[simp] theorem readValue_rksel (s : State) : readValue .rksel s = s.rksel.setWidth 32 := rfl
@[simp] theorem readValue_reserved (s : State) : readValue .reserved s = 0 := rfl

theorem readValue_rkdata_of_busy (n : Fin 4) (s : State) (hb : s.busy = true) :
    readValue (.rkdata n) s = Config.freeWord s.draws := by simp [readValue, hb]

theorem readValue_rkdata_of_idle (n : Fin 4) (s : State) (hb : s.busy = false) :
    readValue (.rkdata n) s = rkdataView s n := by simp [readValue, hb]

/-! ## The fields of STATUS (R38) -/

section StatusBits
variable (err : BitVec 4) (wdrop hw kv busy : BitVec 1)

theorem statusBits_busy : (statusBits err wdrop hw kv busy).getLsbD 0 = busy.getLsbD 0 := by simp [statusBits]
theorem statusBits_keyValid : (statusBits err wdrop hw kv busy).getLsbD 1 = kv.getLsbD 0 := by simp [statusBits]
theorem statusBits_hwacc : (statusBits err wdrop hw kv busy).getLsbD 2 = hw.getLsbD 0 := by simp [statusBits]
theorem statusBits_wdrop : (statusBits err wdrop hw kv busy).getLsbD 3 = wdrop.getLsbD 0 := by simp [statusBits]

/-- Above the four flags stands ERR, from bit 8, and nothing else. -/
theorem statusBits_above_flags (i : Nat) (h : 4 ≤ i) :
    (statusBits err wdrop hw kv busy).getLsbD i = (decide (8 ≤ i) && err.getLsbD (i - 8)) := by
  have hflag (x : BitVec 1) (k : Nat) (hk : k ≤ 3) : x.getLsbD (i - k) = false := BitVec.getLsbD_of_ge x _ (by omega)
  have hbusy : busy.getLsbD i = false := hflag busy 0 (by omega)
  by_cases hi : i < 32
  · by_cases h8 : i < 8
    · simp [statusBits, hflag, hbusy, h8, show ¬ 8 ≤ i by omega]
    · simp [statusBits, hflag, hbusy, hi, h8, show 8 ≤ i by omega]
  · simp [BitVec.getLsbD_of_ge _ i (show 32 ≤ i by omega), BitVec.getLsbD_of_ge err (i - 8) (by omega)]

theorem statusBits_keyValidField : (statusBits err wdrop hw kv busy).extractLsb' 1 1 = kv := by
  apply BitVec.eq_of_getLsbD_eq
  intro i hi
  obtain rfl : i = 0 := by omega
  simpa using statusBits_keyValid err wdrop hw kv busy

theorem statusBits_errField : (statusBits err wdrop hw kv busy).extractLsb' 8 4 = err := by
  apply BitVec.eq_of_getLsbD_eq
  intro i hi
  simp [statusBits_above_flags, hi, show 4 ≤ 8 + i by omega]

theorem statusBits_bits_4_to_7 : (statusBits err wdrop hw kv busy).extractLsb' 4 4 = 0 := by
  apply BitVec.eq_of_getLsbD_eq
  intro i hi
  simp [statusBits_above_flags, show ¬ 8 ≤ 4 + i by omega]

theorem statusBits_bits_12_to_31 : (statusBits err wdrop hw kv busy).extractLsb' 12 20 = 0 := by
  apply BitVec.eq_of_getLsbD_eq
  intro i hi
  simp [statusBits_above_flags, show 4 ≤ 12 + i by omega, BitVec.getLsbD_of_ge err (12 + i - 8) (by omega)]

end StatusBits

theorem hwacc_bit (p : ExecPath) : (hwacc p).getLsbD 0 = decide (p = .hw) := by cases p <;> rfl

/-- A read of STATUS shows BUSY, HWACC and WDROP; KEY_VALID and ERR too when BUSY = 0, and free draws in their place when
BUSY = 1 (log 5). -/
theorem statusView_eq_statusBits (s : State) : ∃ err kv,
    statusView s = statusBits err (BitVec.ofBool s.wdrop) (hwacc s.path) kv (BitVec.ofBool s.busy) ∧
    (s.busy = false → err = s.err ∧ kv = BitVec.ofBool s.keyValid) ∧
    (s.busy = true → err = Config.freeErr s.draws ∧ kv = Config.freeKeyValid s.draws) := by
  cases hb : s.busy with
  | false => exact ⟨s.err, BitVec.ofBool s.keyValid, by simp [statusView, hb], by simp, nofun⟩
  | true => exact ⟨Config.freeErr s.draws, Config.freeKeyValid s.draws, by simp [statusView, hb], nofun, by simp⟩

/-- STATUS bit 2 is HWACC, whatever BUSY is. -/
theorem statusView_hwacc (s : State) : (statusView s).getLsbD 2 = decide (s.path = .hw) := by
  obtain ⟨err, kv, hv, -, -⟩ := statusView_eq_statusBits s
  rw [hv, statusBits_hwacc, hwacc_bit]

/-- After reset STATUS shows HWACC and nothing else. -/
theorem statusView_reset : statusView State.reset = (if Config.hwAccelPresent then 1 else 0) <<< 2 := by
  change statusBits 0 0 (hwacc ExecPath.latched) 0 0 = _
  cases hp : Config.hwAccelPresent <;> simp only [ExecPath.latched, hp] <;> decide

/-! ## What a step changes of BUSY, WDROP and PATH -/

/-- What a step that answers a next state was: nothing (idle), the completion step, or the host's next operation, which uses
one turn of a busy window and none outside it. -/
theorem step_next_cases (s t : State) (h : step s = .next t) :
    t = s ∨ t = complete s ∨
    ∃ op rest n, s.host = op :: rest ∧ (s.busy = false → n = s.turns) ∧
      hostOp op { s with host := rest, turns := n } = .next t := by
  rcases step_cases s with ⟨-, -, hs⟩ | ⟨-, -, hs⟩ | ⟨op, rest, n, hh, hb, -, -, hs⟩ | ⟨op, rest, hh, -, hs⟩
  · exact .inl (by simpa [hs] using h.symm)
  · exact .inr (.inl (by simpa [hs] using h.symm))
  · exact .inr (.inr ⟨op, rest, n, hh, by simp [hb], hs ▸ h⟩)
  · exact .inr (.inr ⟨op, rest, s.turns, hh, fun _ => rfl, hs ▸ h⟩)

@[simp] theorem writeReg_busy (r : WindowReg) (v : Reg32) (s : State) : (writeReg r v s).busy = s.busy := by
  rcases writeReg_cases r v s with h | ⟨-, -, h⟩ | ⟨-, -, h⟩ | ⟨n, -, -, h⟩ | ⟨n, -, -, h⟩ | ⟨-, -, h⟩ <;> rw [h]

@[simp] theorem writeReg_path (r : WindowReg) (v : Reg32) (s : State) : (writeReg r v s).path = s.path := by
  rcases writeReg_cases r v s with h | ⟨-, -, h⟩ | ⟨-, -, h⟩ | ⟨n, -, -, h⟩ | ⟨n, -, -, h⟩ | ⟨-, -, h⟩ <;> rw [h]

/-- A write that is no command changes WDROP only as a dropped write (R336) or a STATUS write with bit 3 = 1 (R38). -/
theorem writeReg_wdrop_ne (r : WindowReg) (v : Reg32) (s : State) (hne : (writeReg r v s).wdrop ≠ s.wdrop) :
    ((writeReg r v s).wdrop = true ∧ s.busy = true ∧ (r = .rksel ∨ ∃ n, r = .key n ∨ r = .din n)) ∨
    ((writeReg r v s).wdrop = false ∧ r = .status ∧ v.getLsbD 3 = true) := by
  rcases writeReg_cases r v s with h | ⟨hr, hv, h⟩ | ⟨hb, hr, h⟩ | ⟨n, -, -, h⟩ | ⟨n, -, -, h⟩ | ⟨-, -, h⟩ <;> rw [h] at hne ⊢
  case inr.inl => exact .inr ⟨rfl, hr, hv⟩
  case inr.inr.inl => exact .inl ⟨rfl, hb, hr⟩
  all_goals exact absurd rfl hne

/-- A host operation that changes WDROP is a reset, a dropped write, or a clearing STATUS write (R30). -/
theorem hostOp_wdrop_ne (op : HostOp) (s t : State) (h : hostOp op s = .next t) (hne : t.wdrop ≠ s.wdrop) :
    (op = .reset ∧ t.wdrop = false) ∨
    ∃ w a v r, op = .write w a v ∧ checkAccess ⟨.write, w, a⟩ = .ok r ∧
      ((t.wdrop = true ∧ s.busy = true ∧ (r = .ctrl ∨ r = .rksel ∨ ∃ n, r = .key n ∨ r = .din n)) ∨
        (t.wdrop = false ∧ r = .status ∧ v.getLsbD 3 = true)) := by
  rcases hostOp_cases op s t h with
    ⟨rfl, rfl⟩ | ⟨r, rfl, -⟩ | ⟨w, a, v, r, rfl, hc, ⟨rfl, hb, rfl⟩ | ⟨rfl, -, rfl⟩ | ⟨-, rfl⟩⟩
  · exact .inl ⟨rfl, rfl⟩
  · exact absurd rfl hne
  · exact .inr ⟨w, a, v, .ctrl, rfl, hc, .inl ⟨rfl, hb, .inl rfl⟩⟩
  · exact absurd rfl hne
  · refine .inr ⟨w, a, v, r, rfl, hc, ?_⟩
    exact (writeReg_wdrop_ne r v s hne).imp_left fun ⟨ht, hb, hr⟩ => ⟨ht, hb, .inr hr⟩

/-- A host operation that changes BUSY is a reset, or an acceptance with BUSY = 0 (R29). -/
theorem hostOp_busy_ne (op : HostOp) (s t : State) (h : hostOp op s = .next t) (hne : t.busy ≠ s.busy) :
    (op = .reset ∧ t.busy = false) ∨
    (t.busy = true ∧ s.busy = false ∧ ∃ w a v, op = .write w a v ∧ checkAccess ⟨.write, w, a⟩ = .ok .ctrl ∧
      acceptWord v s = .next t) := by
  rcases hostOp_cases op s t h with
    ⟨rfl, rfl⟩ | ⟨r, rfl, -⟩ | ⟨w, a, v, r, rfl, hc, ⟨rfl, -, rfl⟩ | ⟨rfl, hb, rfl⟩ | ⟨-, rfl⟩⟩
  · exact .inl ⟨rfl, rfl⟩
  · exact absurd rfl hne
  · exact absurd rfl hne
  · exact .inr ⟨rfl, hb, w, a, v, rfl, hc, acceptWord_eq_accept v s⟩
  · exact absurd (writeReg_busy r v s) hne

/-- A host operation keeps PATH, or is a reset and latches it again (R31). -/
theorem hostOp_path (op : HostOp) (s t : State) (h : hostOp op s = .next t) :
    t.path = s.path ∨ (op = .reset ∧ t.path = State.reset.path) := by
  rcases hostOp_cases op s t h with
    ⟨rfl, rfl⟩ | ⟨r, rfl, -⟩ | ⟨w, a, v, r, rfl, -, ⟨-, -, rfl⟩ | ⟨-, -, rfl⟩ | ⟨-, rfl⟩⟩
  · exact .inr ⟨rfl, rfl⟩
  all_goals exact .inl (by simp)

/-- No rule of a command reads PATH (R256). -/
theorem ruleOf_with_path (i : Instr) (s : State) (p : ExecPath) : ruleOf i { s with path := p } = ruleOf i s := by
  cases i <;> rfl

end Sys2Proof.Machine

open Sys2Proof Sys2Proof.Machine

/-- Settles O49: every such offset names the reserved register. -/
theorem reservedOffsetsReadZeroAndIgnoreWrites : Obligations.ReservedOffsetsReadZeroAndIgnoreWrites := by
  intro s v off hoff
  have hreg : regAt off = .reserved := regAt_reserved off (hoff.imp_right (Or.imp_right And.left))
  simp [hreg]

/-- Settles O43, field by field from the bits of `statusBits`. -/
theorem statusShowsItsFields : Obligations.StatusShowsItsFields := by
  refine ⟨fun s => ?_, busWrite_status, statusView_reset⟩
  obtain ⟨err, kv, hv, hidle, hbusy⟩ := statusView_eq_statusBits s
  simp only [regAt_status, readValue_status, hv]
  have hbit (b : Bool) : (BitVec.ofBool b).getLsbD 0 = b := by simp
  refine ⟨by rw [statusBits_busy, hbit], by rw [statusBits_hwacc, hwacc_bit], by rw [statusBits_wdrop, hbit],
    statusBits_bits_4_to_7 .., statusBits_bits_12_to_31 .., fun hb => ?_, fun hb => ?_⟩
  · obtain ⟨rfl, rfl⟩ := hidle hb
    exact ⟨by rw [statusBits_keyValid, hbit], statusBits_errField ..⟩
  · obtain ⟨rfl, rfl⟩ := hbusy hb
    exact ⟨statusBits_keyValidField .., statusBits_errField ..⟩

/-- Settles O47: the write is `Block.setCol` of the unpacked word, and packing undoes unpacking. -/
theorem keyAndDinReadBackWhatWasWritten : Obligations.KeyAndDinReadBackWhatWasWritten := by
  intro s n v
  rw [regAt_key, regAt_din, readValue_key, readValue_din]
  refine ⟨fun hb => ⟨?_, ?_⟩, rfl, rfl, fun h => ?_, fun h => ?_⟩
  · exact ⟨_, busWrite_key_of_idle n v s hb, rfl, fun m => Block.col_setCol s.key n m (unpack v)⟩
  · exact ⟨_, busWrite_din_of_idle n v s hb, rfl, fun m => Block.col_setCol s.din n m (unpack v)⟩
  · rw [← h, pack_unpack]
  · rw [← h, pack_unpack]

/-- Settles O48: with BUSY = 0 RKDATA shows `rkdataView`, at the index the write left in RKSEL. -/
theorem rkselSelectsTheRoundKeyShown : Obligations.RkselSelectsTheRoundKeyShown := by
  refine ⟨fun s v hb => ?_, roundKey_eq_none_iff, fun s => rfl, fun s n hb => ?_, fun s n v => ?_⟩
  · have hsel : (v.extractLsb' 0 4).toNat = v.toNat % 16 := by simp
    refine ⟨{ s with rksel := v.extractLsb' 0 4 }, busWrite_rksel_of_idle v s hb, rfl, hsel, ?_, fun n => ?_⟩
    · rw [regAt_rksel, readValue_rksel, BitVec.toNat_setWidth, hsel]
      omega
    · rw [regAt_rkdata, readValue_rkdata_of_idle n { s with rksel := v.extractLsb' 0 4 } hb, ← hsel]
      rfl
  · rw [regAt_rkdata, readValue_rkdata_of_busy n s hb]
  · rw [regAt_rkdata, busWrite_rkdata]

/-- Settles O54, from what each host operation does to WDROP; the completion step keeps it. -/
theorem onlyDroppedWritesAndClearsChangeWdrop : Obligations.OnlyDroppedWritesAndClearsChangeWdrop := by
  refine ⟨fun s t h hne => ?_, fun s v r hb hr => busWrite_of_busy r v s hb hr, fun s v hv => ?_, rfl⟩
  · rcases step_next_cases s t h with rfl | rfl | ⟨op, rest, n, hh, -, hop⟩
    · exact absurd rfl hne
    · exact absurd (complete_wdrop s) hne
    · rcases hostOp_wdrop_ne op _ t hop hne with ⟨rfl, ht⟩ | ⟨w, a, v, r, rfl, hw⟩
      · exact .inl ⟨ht, by simp [hh]⟩
      · exact .inr ⟨w, a, v, r, by simp [hh], hw⟩
  · simp [busWrite_status, hv]

/-- Settles O55: only a reset among the host operations latches PATH, and no command's rule reads it. -/
theorem pathChangesOnlyAtReset : Obligations.PathChangesOnlyAtReset := by
  refine ⟨rfl, fun s t h => ?_, statusView_hwacc, fun i s p => ?_⟩
  · rcases step_next_cases s t h with rfl | rfl | ⟨op, rest, n, hh, -, hop⟩
    · exact .inl rfl
    · exact .inl (complete_path s)
    · rcases hostOp_path op _ t hop with hp | ⟨rfl, hp⟩
      · exact .inl hp
      · exact .inr ⟨by simp [hh], hp⟩
  · rw [committed_eq, committed_eq, ruleOf_with_path]
    rfl

/-- Settles O59, from what each host operation does to BUSY. -/
theorem onlyAcceptanceCompletionAndResetChangeBusy : Obligations.OnlyAcceptanceCompletionAndResetChangeBusy := by
  refine ⟨fun s t h hne => ?_, fun v s hb => ?_, complete_busy, fun s => ⟨applyReset s, rfl, rfl⟩, rfl⟩
  · rcases step_next_cases s t h with rfl | rfl | ⟨op, rest, n, hh, hn, hop⟩
    · exact absurd rfl hne
    · exact .inr ⟨complete_busy s, .inl rfl⟩
    · rcases hostOp_busy_ne op _ t hop hne with ⟨rfl, ht⟩ | ⟨ht, hb, w, a, v, rfl, hc, hacc⟩
      · exact .inr ⟨ht, .inr ⟨rest, hh, hop⟩⟩
      · obtain rfl := hn hb
        exact .inl ⟨ht, w, a, v, rest, hh, hc, hacc⟩
  · exact ⟨_, busWrite_ctrl_of_idle v s hb, rfl⟩
end

section
/-! Packing and the register file: the value of a packed word, the bytes of a column, and what the registers that show a
column read as. -/

namespace Sys2Proof

/-- R12: byte 4n + k of a block stands in row k of column n. -/
theorem Block.byte_four_mul_add (b : Block) (n k : Fin 4) : b.byte ⟨4 * n + k, by omega⟩ = (b.col n).byte k := by
  have hrow : (4 * n.val + k.val) % 4 = k := by omega
  have hcol : (4 * n.val + k.val) / 4 = n := by omega
  simp [Block.byte, Block.entry, hrow, hcol]

theorem Block.col_eq_bytes (b : Block) (n : Fin 4) : b.col n =
    ⟨b.byte ⟨4 * n, by omega⟩, b.byte ⟨4 * n + 1, by omega⟩, b.byte ⟨4 * n + 2, by omega⟩, b.byte ⟨4 * n + 3, by omega⟩⟩ :=
  Word.ext (b.byte_four_mul_add n 0).symm (b.byte_four_mul_add n 1).symm (b.byte_four_mul_add n 2).symm
    (b.byte_four_mul_add n 3).symm

namespace Machine

/-- R61 as a number. The four bytes of a bus word are its digits in base 256, and those of `pack w` are the bytes of `w`
(`unpack_pack`). -/
theorem toNat_pack (w : Word) :
    (pack w).toNat = w.a0.toNat * 2 ^ 24 + w.a1.toNat * 2 ^ 16 + w.a2.toNat * 2 ^ 8 + w.a3.toNat := by
  have hbytes := unpack_pack w
  simp only [unpack, Word.ext_iff, BitVec.toNat_eq, BitVec.extractLsb'_toNat, Nat.shiftRight_eq_div_pow] at hbytes
  obtain ⟨h0, h1, h2, h3⟩ := hbytes
  have hlt : (pack w).toNat < 2 ^ 32 := (pack w).isLt
  omega

theorem readValue_dout_of_idle (n : Fin 4) (s : State) (hb : s.busy = false) :
    readValue (.dout n) s = pack (s.state.col n) := by simp [readValue, hb]

/-- R43, for an RKSEL that names a round key. -/
theorem rkdataView_of_roundKey (s : State) (n : Fin 4) (k : RoundKey) (hk : s.rk.roundKey s.rksel.toNat = some k) :
    rkdataView s n = pack (k.col n) := by simp [rkdataView, hk]

end Machine
end Sys2Proof

open Sys2Proof Sys2Proof.Machine

/-- Settles O41, from the value of a packed word, the two inverse laws, and the column each register shows. -/
theorem packIsBigEndian : Obligations.PackIsBigEndian := by
  refine ⟨fun b0 b1 b2 b3 => toNat_pack ⟨b0, b1, b2, b3⟩, unpack_pack, pack_unpack, Block.col_eq_bytes, fun s n => ?_⟩
  refine ⟨readValue_key n s, readValue_din n s, fun hb => ⟨readValue_dout_of_idle n s hb, fun k hk => ?_⟩⟩
  rw [readValue_rkdata_of_idle n s hb, rkdataView_of_roundKey s n k hk]
end

section
/-! The illegal command words (R97): what the opcode map holds at each opcode, which words the decoder refuses, and what
the completion of a raised error leaves. -/

namespace Sys2Proof

/-- R93: a row of the opcode map holds a command of that opcode, under that command's format. -/
theorem opcodeMap_eq_some {op : Nat} {v : Reg32} {fmt : Format} {i : Instr} (h : opcodeMap op v = some (fmt, i)) :
    opcode i = op ∧ formatOf i = fmt := by
  unfold opcodeMap at h
  split at h <;> cases h <;> exact ⟨rfl, rfl⟩

/-- R93: every command's opcode has a row, under the command's format. -/
theorem opcodeMap_opcode (j : Instr) (v : Reg32) : ∃ i, opcodeMap (opcode j) v = some (formatOf j, i) := by
  cases j <;> exact ⟨_, rfl⟩

theorem opcode_lt_reserved (i : Instr) : opcode i < 0x14 := by cases i <;> simp [opcode]

/-- R93: the opcodes without a row are the reserved ones. -/
theorem opcodeMap_eq_none_iff (op : Nat) (v : Reg32) : opcodeMap op v = none ↔ 0x14 ≤ op := by
  constructor
  · intro hnone
    by_contra hlt
    have hrow : op < 0x14 := by omega
    interval_cases op <;> cases hnone
  · intro hres
    cases hm : opcodeMap op v with
    | none => rfl
    | some row =>
      obtain ⟨hop, -⟩ := opcodeMap_eq_some hm
      have hlt := opcode_lt_reserved row.2
      omega

/-- `decode` at an opcode without a row (R99). -/
theorem decode_of_opcodeMap_none {v : Reg32} (h : opcodeMap (opField v) v = none) :
    decode v = .illegal .reservedOpcode := by simp [decode, h]

/-- `decode` at an opcode with a row: the word is illegal exactly when a bit that the format requires to be 0 is 1 (R99). -/
theorem decode_illegal_iff_of_opcodeMap_some {v : Reg32} {fmt : Format} {i : Instr}
    (h : opcodeMap (opField v) v = some (fmt, i)) :
    (∃ why, decode v = .illegal why) ↔ v &&& fixedZero fmt ≠ 0 := by
  simp only [decode, h]
  split
  case isTrue hbit => exact iff_of_true ⟨_, rfl⟩ hbit
  case isFalse hzero => exact iff_of_false (by simp) hzero

/-- R97: the two grounds on which a word is illegal. -/
theorem decode_illegal_iff (v : Reg32) :
    (∃ why, decode v = .illegal why) ↔
      0x14 ≤ opField v ∨ ∃ j, opcode j = opField v ∧ v &&& fixedZero (formatOf j) ≠ 0 := by
  constructor
  · intro hill
    cases hm : opcodeMap (opField v) v with
    | none => exact .inl ((opcodeMap_eq_none_iff _ v).1 hm)
    | some row =>
      obtain ⟨hop, hfmt⟩ := opcodeMap_eq_some hm
      exact .inr ⟨row.2, hop, hfmt ▸ (decode_illegal_iff_of_opcodeMap_some hm).1 hill⟩
  · rintro (hres | ⟨j, hop, hbit⟩)
    · exact ⟨_, decode_of_opcodeMap_none ((opcodeMap_eq_none_iff _ v).2 hres)⟩
    · obtain ⟨i, hrow⟩ := opcodeMap_opcode j v
      exact (decode_illegal_iff_of_opcodeMap_some (hop ▸ hrow)).2 hbit

namespace Machine

/-- R306: an illegal word's rule raises IllegalCommand. -/
theorem wordRule_of_illegal {v : Reg32} {why : IllegalReason} (s : State) (h : Sys2Proof.decode v = .illegal why) :
    wordRule v s = .error .illegalCommand := by simp [wordRule, h]

/-- R301: a raised error, once accepted and completed, has set ERR to its code and left every other state element. -/
theorem complete_accept_raise (e : ErrCode) (s : State) :
    complete (accept (finish (.error e)) s) =
      { s with err := e.code, busy := false, pending := none, turns := 0, draws := s.draws + 1 } := rfl

end Machine
end Sys2Proof

open Sys2Proof Sys2Proof.Machine

/-- Settles O8: the two grounds are the decoder's own, and an illegal word is an accepted error. -/
theorem illegalWordsAreAcceptedAndRaiseIllegalCommand :
    Obligations.IllegalWordsAreAcceptedAndRaiseIllegalCommand := by
  refine fun v => ⟨decode_illegal_iff v, ?_⟩
  rintro ⟨why, hill⟩ s
  refine ⟨_, acceptWord_eq_accept v s, rfl, ?_⟩
  rw [wordRule_of_illegal s hill, complete_accept_raise, code_illegalCommand]
end

section
/-! Multiplication in GF(2^8) as polynomial arithmetic over GF(2) (R121, R122, R129): a bit-by-bit induction for bytes,
reduction modulo 0x11B along the two shift-and-add loops, and Rcon as repeated multiplication by x. -/

namespace Sys2Proof.Machine

/-! ## Units, zero and commutativity of gf_mul -/

/-- The low n + 1 bits, as the low n bits XOR the bit n. -/
theorem setWidth_setWidth_succ_eq_xor (a : Byte) (n : Nat) :
    (a.setWidth (n + 1)).setWidth 8 = (a.setWidth n).setWidth 8 ^^^ (if a.getLsbD n then BitVec.twoPow 8 n else 0) := by
  apply BitVec.eq_of_getLsbD_eq
  intro i hi
  rcases Nat.lt_trichotomy i n with hlt | rfl | hgt
  · cases a.getLsbD n <;> simp [hi, hlt, hlt.ne, show i < n + 1 by omega]
  · cases h : a.getLsbD i <;> simp [hi, -BitVec.getLsbD_eq_getElem, h]
  · cases a.getLsbD n <;> simp [hgt.ne, show ¬ i < n by omega, show ¬ i < n + 1 by omega]

/-- What holds of the eight powers of x and is kept by XOR holds of every byte. -/
theorem byte_xor_induction {P : Byte → Prop} (hpow : ∀ i : Fin 8, P (BitVec.twoPow 8 i))
    (hxor : ∀ a b, P a → P b → P (a ^^^ b)) (a : Byte) : P a := by
  have hzero : P 0 := by simpa using hxor _ _ (hpow 0) (hpow 0)
  have hlow : ∀ n, n ≤ 8 → P ((a.setWidth n).setWidth 8) := by
    intro n
    induction n with
    | zero => intro _; rwa [BitVec.of_length_zero (x := a.setWidth 0)]
    | succ n ih =>
      intro hn
      rw [setWidth_setWidth_succ_eq_xor]
      refine hxor _ _ (ih (by omega)) ?_
      split
      · exact hpow ⟨n, by omega⟩
      · exact hzero
  simpa using hlow 8 (Nat.le_refl 8)

@[simp] theorem gfMul_zero (a : Byte) : gfMul a 0 = 0 := by simp [gfMul_eq_sum]

@[simp] theorem gfMul_one (a : Byte) : gfMul a 1 = a := by simp [gfMul_eq_sum]

/-- R122's multiplication by x is gf_mul's. -/
theorem gfMul_two (a : Byte) : gfMul a 2 = xtime a := by simp [gfMul_eq_sum]

theorem gfMul_twoPow_comm : ∀ i j : Fin 8,
    gfMul (BitVec.twoPow 8 i) (BitVec.twoPow 8 j) = gfMul (BitVec.twoPow 8 j) (BitVec.twoPow 8 i) := by decide

/-- gf_mul is commutative: it is linear in each argument, and commutes on the powers of x. -/
theorem gfMul_comm (a b : Byte) : gfMul a b = gfMul b a := by
  induction a using byte_xor_induction with
  | hxor a₁ a₂ h₁ h₂ => rw [gfMul_xor_left, gfMul_xor_right, h₁, h₂]
  | hpow i =>
    induction b using byte_xor_induction with
    | hxor b₁ b₂ h₁ h₂ => rw [gfMul_xor_left, gfMul_xor_right, h₁, h₂]
    | hpow j => exact gfMul_twoPow_comm i j

/-! ## The carry-less product -/

/-- A byte and its 16-bit extension have the same bits. -/
theorem getLsbD_setWidth_16 (b : Byte) (i : Nat) : (b.setWidth 16).getLsbD i = b.getLsbD i := by
  simpa using fun hb => (BitVec.lt_of_getLsbD hb).trans (by decide : 8 < 16)

/-- One turn of the loop of `carrylessMul`, for bit i of b. -/
def carrylessTurn (a b p : BitVec 16) (i : Nat) : BitVec 16 := if b.getLsbD i then p ^^^ (a <<< i) else p

theorem carrylessMul_eq_foldl (a b : BitVec 16) :
    carrylessMul a b = (List.range 16).foldl (carrylessTurn a b) 0 := rfl

/-- A byte has no bit from 8 on, so the carry-less product by a byte ends after eight turns. -/
theorem carrylessMul_byte (a : BitVec 16) (b : Byte) :
    carrylessMul a (b.setWidth 16) = (List.range 8).foldl (carrylessTurn a (b.setWidth 16)) 0 := by
  have hturn (p : BitVec 16) (i : Nat) : carrylessTurn a (b.setWidth 16) p (8 + i) = p := by
    simp [carrylessTurn]
  rw [carrylessMul_eq_foldl, show List.range 16 = List.range (8 + 8) from rfl, List.range_add, List.foldl_append,
    List.foldl_map]
  simp only [hturn, List.foldl_fixed]

/-- 0x11B is x^8 + x^4 + x^3 + x + 1. -/
theorem carrylessMul_modulus (q : BitVec 16) :
    carrylessMul q 0x11B = q ^^^ q <<< 1 ^^^ q <<< 3 ^^^ q <<< 4 ^^^ q <<< 8 := by
  simp [carrylessMul, List.range_succ]

theorem carrylessMul_modulus_xor (p q : BitVec 16) :
    carrylessMul (p ^^^ q) 0x11B = carrylessMul p 0x11B ^^^ carrylessMul q 0x11B := by
  simp only [carrylessMul_modulus, BitVec.shiftLeft_xor_distrib]
  ac_rfl

theorem carrylessMul_modulus_shiftLeft (q : BitVec 16) :
    carrylessMul (q <<< 1) 0x11B = carrylessMul q 0x11B <<< 1 := by
  simp only [carrylessMul_modulus, BitVec.shiftLeft_xor_distrib, ← BitVec.shiftLeft_add]

/-! ## Reduction modulo 0x11B -/

/-- p is r modulo 0x11B, with a quotient of degree below n. -/
def ReducesTo (n : Nat) (p : BitVec 16) (r : Byte) : Prop :=
  ∃ q : BitVec 16, p = carrylessMul q 0x11B ^^^ r.setWidth 16 ∧ q.toNat < 2 ^ n

theorem reducesTo_setWidth (a : Byte) : ReducesTo 0 (a.setWidth 16) a :=
  ⟨0, by rw [carrylessMul_modulus]; simp, by simp⟩

theorem ReducesTo.mono {m n : Nat} {p : BitVec 16} {r : Byte} (h : ReducesTo m p r) (hmn : m ≤ n) :
    ReducesTo n p r := by
  obtain ⟨q, hp, hq⟩ := h
  exact ⟨q, hp, hq.trans_le (Nat.pow_le_pow_right (by omega) hmn)⟩

theorem ReducesTo.xor {n : Nat} {p p' : BitVec 16} {r r' : Byte} (h : ReducesTo n p r) (h' : ReducesTo n p' r') :
    ReducesTo n (p ^^^ p') (r ^^^ r') := by
  obtain ⟨q, rfl, hq⟩ := h
  obtain ⟨q', rfl, hq'⟩ := h'
  refine ⟨q ^^^ q', ?_, by simpa using Nat.xor_lt_two_pow hq hq'⟩
  rw [carrylessMul_modulus_xor, BitVec.setWidth_xor]
  ac_rfl

/-- A byte shifted by one place in 16 bits, with the bit that leaves the byte at x^8. -/
theorem setWidth_shiftLeft_one (a : Byte) :
    a.setWidth 16 <<< 1 = (a <<< 1).setWidth 16 ^^^ (if a.getLsbD 7 then BitVec.twoPow 16 8 else 0) := by
  apply BitVec.eq_of_getLsbD_eq
  intro i hi
  simp only [BitVec.getLsbD_xor, getLsbD_setWidth_16, BitVec.getLsbD_shiftLeft, hi]
  rcases Nat.lt_trichotomy i 8 with hlt | rfl | hgt
  · cases a.getLsbD 7 <;> simp [hlt, hlt.ne']
  · cases a.getLsbD 7 <;> simp
  · cases a.getLsbD 7 <;> simp [hgt.ne, hgt.not_gt, BitVec.getLsbD_of_ge a (i - 1) (by omega)]

/-- xtime is the shift by one place, less 0x11B when bit 7 was 1 (R122). -/
theorem setWidth_shiftLeft_one_eq_xtime (a : Byte) :
    a.setWidth 16 <<< 1 = carrylessMul (if a.getLsbD 7 then 1 else 0) 0x11B ^^^ (xtime a).setWidth 16 := by
  rw [setWidth_shiftLeft_one, xtime, BitVec.setWidth_xor, carrylessMul_modulus, ← BitVec.xor_assoc,
    BitVec.xor_comm _ ((a <<< 1).setWidth 16), BitVec.xor_assoc]
  cases a.getLsbD 7 <;> rfl

/-- A shift by one place keeps the congruence, if the remainder goes through xtime. -/
theorem ReducesTo.shiftLeft_one {n : Nat} {p : BitVec 16} {r : Byte} (h : ReducesTo n p r) :
    ReducesTo (n + 1) (p <<< 1) (xtime r) := by
  obtain ⟨q, rfl, hq⟩ := h
  refine ⟨q <<< 1 ^^^ (if r.getLsbD 7 then 1 else 0), ?_, ?_⟩
  · rw [BitVec.shiftLeft_xor_distrib, setWidth_shiftLeft_one_eq_xtime, carrylessMul_modulus_xor,
      carrylessMul_modulus_shiftLeft, BitVec.xor_assoc]
  · have hshift : (q <<< 1).toNat < 2 ^ (n + 1) := by
      rw [BitVec.toNat_shiftLeft, Nat.shiftLeft_eq, Nat.pow_succ]
      omega
    have hcarry : (if r.getLsbD 7 then 1 else 0 : BitVec 16).toNat < 2 ^ (n + 1) := by
      split
      · exact Nat.one_lt_two_pow (by omega)
      · exact Nat.two_pow_pos _
    simpa using Nat.xor_lt_two_pow hshift hcarry

/-- The loops of R122 and of the carry-less product go together: after n turns the doubled byte is a shifted by n places
modulo 0x11B, and the partial results agree modulo 0x11B. -/
theorem gfMul_loop_reducesTo (a b : Byte) (n : Nat) :
    ReducesTo n (a.setWidth 16 <<< n) ((List.range n).foldl (gfMulTurn b) (0, a)).2 ∧
    ReducesTo (n - 1) ((List.range n).foldl (carrylessTurn (a.setWidth 16) (b.setWidth 16)) 0)
      ((List.range n).foldl (gfMulTurn b) (0, a)).1 := by
  induction n with
  | zero => exact ⟨by simpa using reducesTo_setWidth a, reducesTo_setWidth 0⟩
  | succ n ih =>
    obtain ⟨hdouble, hsum⟩ := ih
    simp only [List.range_succ, List.foldl_append, List.foldl_cons, List.foldl_nil]
    refine ⟨BitVec.shiftLeft_add .. ▸ hdouble.shiftLeft_one, ?_⟩
    have hkeep := hsum.mono (Nat.sub_le n 1)
    simp only [carrylessTurn, gfMulTurn, getLsbD_setWidth_16]
    cases b.getLsbD n
    · exact hkeep
    · exact hkeep.xor hdouble

/-- R121: gf_mul is the remainder of the carry-less product. -/
theorem carrylessMul_reducesTo_gfMul (a b : Byte) :
    ReducesTo 7 (carrylessMul (a.setWidth 16) (b.setWidth 16)) (gfMul a b) := by
  rw [carrylessMul_byte]
  exact (gfMul_loop_reducesTo a b 8).2

/-! ## Rcon -/

/-- R129: below 10 the next value is xtime of the present one. -/
theorem rcon_succ_eq_xtime (i : Nat) (h1 : 1 ≤ i) (h9 : i ≤ 9) :
    ∃ c, rcon i = some c ∧ rcon (i + 1) = some (xtime c) := by
  interval_cases i <;> exact ⟨_, rfl, rfl⟩

end Sys2Proof.Machine

open Sys2Proof Sys2Proof.Machine

/-- Settles O26: the loops of R122 and of the carry-less product agree modulo 0x11B turn by turn. -/
theorem gfMulIsTheProductModulo0x11B : Obligations.GfMulIsTheProductModulo0x11B :=
  ⟨carrylessMul_reducesTo_gfMul, gfMul_comm, gfMul_zero, gfMul_one⟩

/-- Settles O29, from R129's recurrence and where `rcon` has a value. -/
theorem rconIsTheSuccessivePowersOfX : Obligations.RconIsTheSuccessivePowersOfX := by
  refine ⟨rfl, fun i h1 h9 => ?_, rcon_eq_none_iff, rfl, rfl, rfl⟩
  obtain ⟨c, hi, hnext⟩ := rcon_succ_eq_xtime i h1 h9
  exact ⟨c, hi, gfMul_two c ▸ hnext⟩
end

section
/-! The key schedule (R160 to R170): the words of the expansion in order and the recurrence they obey, the round keys they
make, and what KEY_EXPAND leaves. -/

namespace Sys2Proof

@[simp] theorem Word.byte_map (f : Byte → Byte) (w : Word) (k : Fin 4) : (w.map f).byte k = f (w.byte k) := by
  fin_cases k <;> rfl

namespace Machine

/-! ## One word of the expansion (R163) -/

theorem nextWord_of_mod_eq_zero {i : Nat} {c : Byte} (h : i % 4 = 0) (hc : rcon (i / 4) = some c) (back4 back1 : Word) :
    nextWord i back4 back1 = back4.xor ((subWord (rotWord back1)).xor ⟨c, 0x00, 0x00, 0x00⟩) := by
  simp [nextWord, h, hc]

theorem nextWord_of_mod_ne_zero {i : Nat} (h : i % 4 ≠ 0) (back4 back1 : Word) :
    nextWord i back4 back1 = back4.xor back1 := by simp [nextWord, h]

/-- R129, R130: Rcon has a value on 1..10. -/
theorem rcon_eq_some {r : Nat} (h1 : 1 ≤ r) (h10 : r ≤ 10) : ∃ c, rcon r = some c := by
  rw [← Option.ne_none_iff_exists', Ne, rcon_eq_none_iff]
  omega

/-- R161: SubWord is `sbox` on each byte. -/
@[simp] theorem byte_subWord (w : Word) (k : Fin 4) : (subWord w).byte k = sbox (w.byte k) := Word.byte_map sbox w k

/-! ## The words in order -/

@[simp] theorem length_wordsUpTo (key : Block) (n : Nat) : (wordsUpTo key n).length = n + 4 := by
  induction n with
  | zero => rfl
  | succ n ih => simp [wordsUpTo, ih]

/-- A word of the list that stands newest first, by its place in the expansion. -/
theorem getD_wordsUpTo (key : Block) (n : Nat) {j : Nat} (hj : j < n + 4) :
    (wordsUpTo key n).getD j Word.zero = (wordsUpTo key n).reverse.getD (n + 3 - j) Word.zero := by
  rw [List.getD_reverse _ (by rw [length_wordsUpTo]; omega), length_wordsUpTo]
  congr 1
  omega

/-- Each turn appends its word to the words in order, made of the one four places and the one a single place before it. -/
theorem reverse_wordsUpTo_succ (key : Block) (n : Nat) :
    (wordsUpTo key (n + 1)).reverse = (wordsUpTo key n).reverse ++
      [nextWord (n + 4) ((wordsUpTo key n).reverse.getD n Word.zero) ((wordsUpTo key n).reverse.getD (n + 3) Word.zero)] := by
  rw [wordsUpTo, List.reverse_cons, getD_wordsUpTo key n (by omega), getD_wordsUpTo key n (by omega)]
  rfl

/-- A later turn keeps every word already there. -/
theorem getD_reverse_wordsUpTo_of_le (key : Block) {n m : Nat} (hnm : n ≤ m) {i : Nat} (hi : i < n + 4) :
    (wordsUpTo key m).reverse.getD i Word.zero = (wordsUpTo key n).reverse.getD i Word.zero := by
  induction m, hnm using Nat.le_induction with
  | base => rfl
  | succ m hnm ih =>
    have hlen : i < (wordsUpTo key m).reverse.length := by rw [List.length_reverse, length_wordsUpTo]; omega
    rw [reverse_wordsUpTo_succ, List.getD_append _ _ _ _ hlen, ih]

/-- Word i of the expansion of a key. -/
def expansionWord (key : Block) (i : Nat) : Word := (expandedWords key).getD i Word.zero

/-- A word of the expansion may be read after any number of turns that have made it. -/
theorem expansionWord_eq_getD (key : Block) {n i : Nat} (hn : n ≤ 40) (hi : i < n + 4) :
    expansionWord key i = (wordsUpTo key n).reverse.getD i Word.zero :=
  getD_reverse_wordsUpTo_of_le key hn hi

/-- R162: words 0..3 are the key's columns. -/
theorem expansionWord_eq_col (key : Block) (i : Fin 4) : expansionWord key i = key.col i := by
  rw [expansionWord_eq_getD key (Nat.zero_le 40) (by omega)]
  fin_cases i <;> rfl

/-- R163: each later word is the next word after the ones four places and one place before it. -/
theorem expansionWord_eq_nextWord (key : Block) {i : Nat} (h4 : 4 ≤ i) (h43 : i ≤ 43) :
    expansionWord key i = nextWord i (expansionWord key (i - 4)) (expansionWord key (i - 1)) := by
  obtain ⟨n, rfl⟩ := Nat.exists_eq_add_of_le' h4
  rw [expansionWord_eq_getD key (n := n + 1) (by omega) (by omega), reverse_wordsUpTo_succ,
    List.getD_append_right _ _ _ _ (by simp), expansionWord_eq_getD key (n := n) (by omega) (by omega),
    expansionWord_eq_getD key (n := n) (by omega) (by omega)]
  simp

/-! ## The round keys (R164, R166) -/

/-- R164: round key r is words 4r .. 4r+3. -/
theorem keyExpansion_roundKey (key : Block) {r : Nat} (hr : r ≤ 10) :
    (keyExpansion key).roundKey r = some ⟨expansionWord key (4 * r), expansionWord key (4 * r + 1),
      expansionWord key (4 * r + 2), expansionWord key (4 * r + 3)⟩ :=
  roundKey_ofFn _ r hr

/-- R166: words 0..3 are the key, column by column. -/
theorem keyExpansion_roundKey_zero (key : Block) : (keyExpansion key).roundKey 0 = some key := by
  rw [keyExpansion_roundKey key (Nat.zero_le 10)]
  exact congrArg some (Block.ext (expansionWord_eq_col key 0) (expansionWord_eq_col key 1) (expansionWord_eq_col key 2)
    (expansionWord_eq_col key 3))

/-! ## KEY_EXPAND (R170) -/

theorem keyExpandRule_sixteen (s : State) :
    keyExpandRule 16 s = .ok { rk := some (keyExpansion s.key), keyValid := some true } := rfl

theorem keyExpandRule_of_ne (s : State) {len : Nat} (h : len ≠ 16) : keyExpandRule len s = .error .invalidKeyLength :=
  ((keyExpandRule_cases len s).resolve_right fun hok => h hok.1).2

end Machine
end Sys2Proof

open Sys2Proof Sys2Proof.Machine

/-- Settles O31: the words are those of the model's list in order. In a word number i of 4..43 that 4 divides, i / 4 lies in
1..10, where Rcon has a value. -/
theorem keyExpansionFollowsTheRecurrence : Obligations.KeyExpansionFollowsTheRecurrence := by
  refine fun key => ⟨expansionWord key, expansionWord_eq_col key, fun i h4 h43 hi => ?_, fun i h4 h43 hi => ?_,
    fun r hr => keyExpansion_roundKey key hr⟩
  · obtain ⟨c, hc⟩ := rcon_eq_some (r := i / 4) (by omega) (by omega)
    exact ⟨c, hc, (expansionWord_eq_nextWord key h4 h43).trans (nextWord_of_mod_eq_zero hi hc _ _)⟩
  · exact (expansionWord_eq_nextWord key h4 h43).trans (nextWord_of_mod_ne_zero hi _ _)

/-- Settles O20: KEY_EXPAND is accepted with the Result of its rule, which LEN decides. -/
theorem keyExpandWritesTheScheduleOfKey : Obligations.KeyExpandWritesTheScheduleOfKey := by
  refine fun s => ⟨⟨_, exec_eq_accept (.keyExpand 16) s, rfl, ?_⟩,
    fun len hlen => ⟨_, exec_eq_accept (.keyExpand len) s, rfl, ?_⟩⟩
  · have hrule : ruleOf (.keyExpand 16) s = _ := keyExpandRule_sixteen s
    rw [hrule, finish_ok, complete_accept]
    rfl
  · have hrule : ruleOf (.keyExpand len) s = _ := keyExpandRule_of_ne s hlen
    rw [hrule, complete_accept_raise, code_invalidKeyLength]

/-- Settles O30: RotWord is R160 as it stands, and a byte of SubWord is a byte of a mapped word. -/
theorem rotWordAndSubWordActOnTheFourBytes : Obligations.RotWordAndSubWordActOnTheFourBytes :=
  ⟨fun _ _ _ _ => rfl, byte_subWord⟩

/-- Settles O32: round key 0 is words 0..3, which are the key's columns. -/
theorem roundKeyZeroIsTheMasterKey : Obligations.RoundKeyZeroIsTheMasterKey := keyExpansion_roundKey_zero
end

section
/-! The round transforms (R180 to R191): what each does to an entry, what it does to a byte, and that each undoes its
inverse. MixColumns and its inverse are matrices over GF(2^8), whose product is the unit matrix. -/

namespace Sys2Proof

/-! ## Blocks -/

@[simp] theorem Block.byte_map (f : Byte → Byte) (b : Block) (i : Fin 16) : (b.map f).byte i = f (b.byte i) :=
  b.entry_map f _ _

@[simp] theorem Block.byte_xor (x y : Block) (i : Fin 16) : (x.xor y).byte i = x.byte i ^^^ y.byte i :=
  x.entry_xor y _ _

@[simp] theorem Block.col_ofMatrix (f : Fin 4 → Fin 4 → Byte) (c : Fin 4) :
    (Block.ofMatrix f).col c = Word.ofFn fun r => f r c := by
  fin_cases c <;> rfl

theorem Block.ext_col {b b' : Block} (h : ∀ c, b.col c = b'.col c) : b = b' :=
  Block.ext (h 0) (h 1) (h 2) (h 3)

theorem Block.map_map_of_leftInverse {f g : Byte → Byte} (h : Function.LeftInverse g f) (b : Block) :
    (b.map f).map g = b :=
  Block.ext_entry _ _ fun r c => by rw [entry_map, entry_map, h]

namespace Machine

/-! ## SubBytes (R180, R181) -/

/-- R127: INV_SBOX undoes SBOX, by the two tables (log 1). -/
theorem invSbox_sbox : Function.LeftInverse invSbox sbox :=
  forall_byte _ (by decide +kernel)

theorem sbox_invSbox : Function.LeftInverse sbox invSbox :=
  forall_byte _ (by decide +kernel)

@[simp] theorem invSubBytes_subBytes (s : Block) : invSubBytes (subBytes s) = s := s.map_map_of_leftInverse invSbox_sbox

@[simp] theorem subBytes_invSubBytes (s : Block) : subBytes (invSubBytes s) = s := s.map_map_of_leftInverse sbox_invSbox

/-! ## ShiftRows (R182, R183) -/

@[simp] theorem entry_shiftRows (s : Block) (r c : Fin 4) : (shiftRows s).entry r c = s.entry r (c + r) :=
  Block.entry_ofMatrix _ r c

@[simp] theorem entry_invShiftRows (s : Block) (r c : Fin 4) : (invShiftRows s).entry r c = s.entry r (c - r) :=
  Block.entry_ofMatrix _ r c

@[simp] theorem invShiftRows_shiftRows (s : Block) : invShiftRows (shiftRows s) = s :=
  Block.ext_entry _ _ fun r c => by rw [entry_invShiftRows, entry_shiftRows, sub_add_cancel]

@[simp] theorem shiftRows_invShiftRows (s : Block) : shiftRows (invShiftRows s) = s :=
  Block.ext_entry _ _ fun r c => by rw [entry_shiftRows, entry_invShiftRows, add_sub_cancel_right]

/-! ## AddRoundKey (R190) -/

@[simp] theorem addRoundKey_addRoundKey (s rk : Block) : addRoundKey (addRoundKey s rk) rk = s :=
  Block.ext_entry _ _ fun r c => by simp [addRoundKey]

/-! ## Matrices over GF(2^8) -/

@[simp] theorem zero_gfMul (a : Byte) : gfMul 0#8 a = 0#8 := (gfMul_comm _ a).trans (gfMul_zero a)

@[simp] theorem one_gfMul (a : Byte) : gfMul 1#8 a = a := (gfMul_comm _ a).trans (gfMul_one a)

theorem gfMul_twoPow_assoc : ∀ i j k : Fin 8,
    gfMul (gfMul (BitVec.twoPow 8 i) (BitVec.twoPow 8 j)) (BitVec.twoPow 8 k) =
      gfMul (BitVec.twoPow 8 i) (gfMul (BitVec.twoPow 8 j) (BitVec.twoPow 8 k)) := by
  decide +kernel

/-- gf_mul is associative: both sides are linear in each of the three bytes, and agree on the powers of x. -/
theorem gfMul_assoc (a b c : Byte) : gfMul (gfMul a b) c = gfMul a (gfMul b c) := by
  induction a using byte_xor_induction with
  | hxor a₁ a₂ h₁ h₂ => simp only [gfMul_xor_left, h₁, h₂]
  | hpow i =>
    induction b using byte_xor_induction with
    | hxor b₁ b₂ h₁ h₂ => simp only [gfMul_xor_left, gfMul_xor_right, h₁, h₂]
    | hpow j =>
      induction c using byte_xor_induction with
      | hxor c₁ c₂ h₁ h₂ => simp only [gfMul_xor_right, h₁, h₂]
      | hpow k => exact gfMul_twoPow_assoc i j k

/-- A matrix, given by its rows, times a column. -/
def matTimes (m : Fin 4 → Word) (w : Word) : Word := Word.ofFn fun r => rowTimes (m r) w

/-- The product of two matrices, row by row: entry (r, j) is row r of the first times column j of the second. -/
def matMul (m n : Fin 4 → Word) (r : Fin 4) : Word := Word.ofFn fun j => rowTimes (m r) (Word.ofFn fun k => (n k).byte j)

/-- Row r of the unit matrix. -/
def unitRow (r : Fin 4) : Word := Word.ofFn fun j => if j = r then 1 else 0

theorem matTimes_matTimes (m n : Fin 4 → Word) (w : Word) : matTimes m (matTimes n w) = matTimes (matMul m n) w := by
  simp only [matTimes, matMul, rowTimes, Word.ofFn, Word.byte, gfMul_xor_left, gfMul_xor_right, gfMul_assoc]
  congr 1 <;> ac_rfl

theorem matTimes_unitRow (w : Word) : matTimes unitRow w = w := by
  simp [matTimes, unitRow, rowTimes, Word.ofFn]

theorem invMixRow_matMul_mixRow : matMul invMixRow mixRow = unitRow := funext (by decide)

theorem mixRow_matMul_invMixRow : matMul mixRow invMixRow = unitRow := funext (by decide)

/-! ## MixColumns (R184, R185) -/

theorem entry_mixColumns (s : Block) (r c : Fin 4) : (mixColumns s).entry r c = rowTimes (mixRow r) (s.col c) :=
  Block.entry_ofMatrix _ r c

theorem entry_invMixColumns (s : Block) (r c : Fin 4) : (invMixColumns s).entry r c = rowTimes (invMixRow r) (s.col c) :=
  Block.entry_ofMatrix _ r c

theorem col_mixColumns (s : Block) (c : Fin 4) : (mixColumns s).col c = matTimes mixRow (s.col c) :=
  Block.col_ofMatrix _ c

theorem col_invMixColumns (s : Block) (c : Fin 4) : (invMixColumns s).col c = matTimes invMixRow (s.col c) :=
  Block.col_ofMatrix _ c

@[simp] theorem invMixColumns_mixColumns (s : Block) : invMixColumns (mixColumns s) = s :=
  Block.ext_col fun c => by
    rw [col_invMixColumns, col_mixColumns, matTimes_matTimes, invMixRow_matMul_mixRow, matTimes_unitRow]

@[simp] theorem mixColumns_invMixColumns (s : Block) : mixColumns (invMixColumns s) = s :=
  Block.ext_col fun c => by
    rw [col_mixColumns, col_invMixColumns, matTimes_matTimes, mixRow_matMul_invMixRow, matTimes_unitRow]

end Machine
end Sys2Proof

open Sys2Proof Sys2Proof.Machine

/-- Settles O36: the inverse S-boxes, the opposite shifts of a row, the matrices whose product is the unit matrix, and XOR. -/
theorem eachTransformIsUndoneByItsInverse : Obligations.EachTransformIsUndoneByItsInverse := fun s rk =>
  ⟨invSubBytes_subBytes s, subBytes_invSubBytes s, invShiftRows_shiftRows s, shiftRows_invShiftRows s,
    invMixColumns_mixColumns s, mixColumns_invMixColumns s, addRoundKey_addRoundKey s rk⟩

/-- Settles O33: a byte of a mapped block, and of the XOR of two blocks. -/
theorem subBytesAndAddRoundKeyActBytewise : Obligations.SubBytesAndAddRoundKeyActBytewise := fun s rk i =>
  ⟨s.byte_map sbox i, s.byte_map invSbox i, s.byte_xor rk i, addRoundKey_addRoundKey s rk⟩

/-- Settles O34: the row rule, and the permutations read off it byte by byte. -/
theorem shiftRowsMovesTheBytesOfEachRow : Obligations.ShiftRowsMovesTheBytesOfEachRow := by
  refine fun s => ⟨fun r c => ⟨entry_shiftRows s r c, entry_invShiftRows s r c⟩, fun i => ?_⟩
  simp only [Block.byte, entry_shiftRows, entry_invShiftRows]
  fin_cases i <;> exact ⟨rfl, rfl⟩

/-- Settles O35: the eight sums are the rows of the two matrices times column c. -/
theorem mixColumnsMultipliesEachColumnByTheMatrix : Obligations.MixColumnsMultipliesEachColumnByTheMatrix := fun s c =>
  ⟨⟨entry_mixColumns s 0 c, entry_mixColumns s 1 c, entry_mixColumns s 2 c, entry_mixColumns s 3 c⟩,
    ⟨entry_invMixColumns s 0 c, entry_invMixColumns s 1 c, entry_invMixColumns s 2 c, entry_invMixColumns s 3 c⟩⟩
end

section
/-! The cipher (R220 to R223): one turn of DecryptBlock's loop undoes one middle round under the same round key, so the loop
over the round keys in reverse order undoes the loop in order, and each cipher undoes the other. -/

namespace Sys2Proof.Machine

/-! ## One round -/

@[simp] theorem decryptMiddle_encryptMiddle (b : Block) (rk : RoundKey) : decryptMiddle (encryptMiddle b rk) rk = b := by
  simp [decryptMiddle, encryptMiddle]

@[simp] theorem encryptMiddle_decryptMiddle (b : Block) (rk : RoundKey) : encryptMiddle (decryptMiddle b rk) rk = b := by
  simp [decryptMiddle, encryptMiddle]

/-! ## The loop over the round keys -/

/-- A loop in reverse order undoes the loop in order when each turn undoes the turn with the same key. -/
theorem foldl_reverse_foldl_of_undo {f g : Block → RoundKey → Block} (h : ∀ b k, g (f b k) k = b) (ks : List RoundKey)
    (b : Block) : ks.reverse.foldl g (ks.foldl f b) = b := by
  induction ks generalizing b with
  | nil => rfl
  | cons k ks ih => rw [List.foldl_cons, List.reverse_cons, List.foldl_append, ih, List.foldl_cons, List.foldl_nil, h]

@[simp] theorem foldl_decryptMiddle_reverse_foldl_encryptMiddle (ks : List RoundKey) (b : Block) :
    ks.reverse.foldl decryptMiddle (ks.foldl encryptMiddle b) = b :=
  foldl_reverse_foldl_of_undo decryptMiddle_encryptMiddle ks b

@[simp] theorem foldl_encryptMiddle_foldl_decryptMiddle_reverse (ks : List RoundKey) (b : Block) :
    ks.foldl encryptMiddle (ks.reverse.foldl decryptMiddle b) = b := by
  simpa only [List.reverse_reverse] using foldl_reverse_foldl_of_undo encryptMiddle_decryptMiddle ks.reverse b

/-! ## The block ciphers -/

@[simp] theorem decryptBlock_encryptBlock (p : Block) (rk : Schedule) : decryptBlock (encryptBlock p rk) rk = p := by
  simp only [decryptBlock, encryptBlock, addRoundKey_addRoundKey, invShiftRows_shiftRows, invSubBytes_subBytes,
    foldl_decryptMiddle_reverse_foldl_encryptMiddle]

@[simp] theorem encryptBlock_decryptBlock (c : Block) (rk : Schedule) : encryptBlock (decryptBlock c rk) rk = c := by
  simp only [decryptBlock, encryptBlock, addRoundKey_addRoundKey, shiftRows_invShiftRows, subBytes_invSubBytes,
    foldl_encryptMiddle_foldl_decryptMiddle_reverse]

end Sys2Proof.Machine

open Sys2Proof Sys2Proof.Machine

/-- Settles O37: each step of one cipher undoes the step of the other with the same round key, in reverse order. -/
theorem decryptBlockInvertsEncryptBlock : Obligations.DecryptBlockInvertsEncryptBlock := fun p rk =>
  ⟨decryptBlock_encryptBlock p rk, encryptBlock_decryptBlock p rk⟩

/-- Settles O38: a closed fact, so the kernel evaluates the key expansion and the ten rounds. -/
theorem knownAnswerVectorHolds : Obligations.KnownAnswerVectorHolds := by
  unfold Obligations.KnownAnswerVectorHolds
  decide +kernel
end

section
/-! The host's accesses (R66, R273): what refuses one, the faults that name it, and what a read and a write are on either
answer of `checkAccess`. -/

namespace Sys2Proof.Machine

/-- Whatever the ground of a refusal, its fault carries the access (R273). -/
theorem checkAccess_error (a : Access) (f : Fault) (h : checkAccess a = .error f) :
    f = .unsupportedWidth a ∨ f = .misaligned a ∨ f = .outsideWindow a := by
  simp only [checkAccess] at h
  split at h
  · exact .inl (Except.error.inj h).symm
  · split at h
    · exact .inr (.inr (Except.error.inj h).symm)
    · split at h
      · exact .inr (.inr (Except.error.inj h).symm)
      · split at h
        · exact .inr (.inl (Except.error.inj h).symm)
        · cases h

/-- An access of another width, or not at an aligned offset of the window, is refused (R66). -/
theorem checkAccess_of_unsupported (k : AccessKind) (w : Nat) (a : BusAddr)
    (h : w ≠ 32 ∨ a.offset = none ∨ ∃ off, a.offset = some off ∧ (off % 4 ≠ 0 ∨ 0x100 ≤ off)) :
    ∃ f, checkAccess ⟨k, w, a⟩ = .error f := by
  cases hc : checkAccess ⟨k, w, a⟩ with
  | error f => exact ⟨f, rfl⟩
  | ok r =>
    obtain ⟨hw, off, ho, hlt, hal, -⟩ := checkAccess_ok k w a r hc
    rcases h with hne | hnone | ⟨off', ho', hbad⟩
    · exact absurd hw hne
    · cases ho.symm.trans hnone
    · cases ho.symm.trans ho'
      omega

theorem hostOp_read_of_error (w : Nat) (a : BusAddr) (f : Fault) (s : State) (h : checkAccess ⟨.read, w, a⟩ = .error f) :
    hostOp (.read w a) s = .fault f := by
  simp only [hostOp, h]

theorem hostOp_read_of_ok (w : Nat) (a : BusAddr) (r : WindowReg) (s : State) (h : checkAccess ⟨.read, w, a⟩ = .ok r) :
    hostOp (.read w a) s = .next (busRead r s) := by
  simp only [hostOp, h]

theorem hostOp_write_of_error (w : Nat) (a : BusAddr) (v : Reg32) (f : Fault) (s : State)
    (h : checkAccess ⟨.write, w, a⟩ = .error f) : hostOp (.write w a v) s = .fault f := by
  simp only [hostOp, h]

theorem hostOp_write_of_ok (w : Nat) (a : BusAddr) (v : Reg32) (r : WindowReg) (s : State)
    (h : checkAccess ⟨.write, w, a⟩ = .ok r) : hostOp (.write w a v) s = busWrite r v s := by
  simp only [hostOp, h]

end Sys2Proof.Machine

open Sys2Proof Sys2Proof.Machine

/-- Settles O50: `checkAccess` refuses exactly the unsupported accesses, with faults that carry them, and a read or a write
does what its answer says. -/
theorem unsupportedAccessesFault : Obligations.UnsupportedAccessesFault := by
  refine ⟨fun s w addr v h => ⟨?_, ?_⟩, checkAccess_of_offset, fun s addr off v ho hal hlt => ⟨?_, ?_⟩⟩
  · obtain ⟨f, hf⟩ := checkAccess_of_unsupported .read w addr h
    exact ⟨f, hostOp_read_of_error w addr f s hf, checkAccess_error _ f hf⟩
  · obtain ⟨f, hf⟩ := checkAccess_of_unsupported .write w addr h
    exact ⟨f, hostOp_write_of_error w addr v f s hf, checkAccess_error _ f hf⟩
  · exact hostOp_read_of_ok 32 addr _ s (checkAccess_of_offset .read addr off ho hal hlt)
  · exact hostOp_write_of_ok 32 addr v _ s (checkAccess_of_offset .write addr off ho hal hlt)
end

section
/-! The errors of commands (R300 to R308): what a Result depends on, what an error leaves, and the code of the first failing
check of each rule. -/

namespace Sys2Proof.Machine

/-! ## The snapshot (R35, R308) -/

/-- What a command reads of the state at acceptance (R35): KEY, DIN, STATE, RK and KEY_VALID, all else as after reset. -/
def State.snapshot (s : State) : State :=
  { State.reset with key := s.key, din := s.din, state := s.state, rk := s.rk, keyValid := s.keyValid }

theorem snapshot_eq {s s' : State} (hkey : s'.key = s.key) (hdin : s'.din = s.din) (hstate : s'.state = s.state)
    (hrk : s'.rk = s.rk) (hvalid : s'.keyValid = s.keyValid) : s'.snapshot = s.snapshot := by
  simp only [State.snapshot, hkey, hdin, hstate, hrk, hvalid]

/-- No rule of a command reads anything outside the snapshot. -/
theorem ruleOf_snapshot (i : Instr) (s : State) : ruleOf i s.snapshot = ruleOf i s := by cases i <;> rfl

theorem wordRule_snapshot (v : Reg32) (s : State) : wordRule v s.snapshot = wordRule v s := by
  cases hd : Sys2Proof.decode v <;> simp [wordRule, hd, ruleOf_snapshot]

/-! ## A raised error (R301) -/

/-- A Result whose code is not success comes from a rule that raised that code. -/
theorem eq_error_of_finish_err_ne_success {rule : Except ErrCode Writes} (h : (finish rule).err ≠ .success) :
    rule = .error (finish rule).err := by
  cases rule with
  | error e => rfl
  | ok w => exact absurd rfl h

/-! ## The first failing check of each rule (R302) -/

/-- The code ERR takes when a rule's Result is committed (R36, R300). -/
def ruleCode (rule : Except ErrCode Writes) : BitVec 4 := (finish rule).err.code

@[simp] theorem ruleCode_ok (w : Writes) : ruleCode (.ok w) = 0 := rfl
@[simp] theorem ruleCode_error (e : ErrCode) : ruleCode (.error e) = e.code := rfl

@[simp] theorem complete_accept_err (rule : Except ErrCode Writes) (s : State) :
    (complete (accept (finish rule) s)).err = ruleCode rule := rfl

/-- A rule that checks LEN first reports a bad LEN before anything the rest raises (R302). -/
theorem ruleCode_operandLength_bind (len : Nat) (e : ErrCode) (rest : Unit → Except ErrCode Writes) :
    ruleCode (operandLength len e >>= rest) = if len ≠ 16 then e.code else ruleCode (rest ()) := by
  by_cases hlen : len = 16
  · subst hlen
    rfl
  · rw [operandLength_of_ne len e hlen, if_pos hlen]
    rfl

/-- A rule that reads RK reports KEY_VALID = 0 before anything the rest raises (R305). -/
theorem ruleCode_requireSchedule_bind (keyValid : Bool) (rest : Unit → Except ErrCode Writes) :
    ruleCode (requireSchedule keyValid >>= rest) = if keyValid = false then 3 else ruleCode (rest ()) := by
  cases keyValid <;> rfl

theorem ruleCode_keyExpandRule (len : Nat) (s : State) :
    ruleCode (keyExpandRule len s) = if len ≠ 16 then 1 else 0 :=
  ruleCode_operandLength_bind len .invalidKeyLength _

theorem ruleCode_encryptRule (len : Nat) (s : State) :
    ruleCode (encryptRule len s) = if len ≠ 16 then 2 else if s.keyValid = false then 3 else 0 := by
  rw [encryptRule, ruleCode_operandLength_bind, ruleCode_requireSchedule_bind]
  rfl

theorem ruleCode_decryptRule (len : Nat) (s : State) :
    ruleCode (decryptRule len s) = if len ≠ 16 then 2 else if s.keyValid = false then 3 else 0 := by
  rw [decryptRule, ruleCode_operandLength_bind, ruleCode_requireSchedule_bind]
  rfl

theorem ruleCode_keyedRule (f : Block → RoundKey → Block) (k : Nat) (s : State) :
    ruleCode (keyedRule f k s) = if 10 < k then 5 else if s.keyValid = false then 3 else 0 := by
  rcases keyedRule_cases f k s with ⟨hk, h⟩ | ⟨hk, hv, h⟩ | ⟨rk, hk, -, hv, h⟩
  · simp [h, hk]
  · simp [h, hk.not_gt, hv]
  · simp [h, hk.not_gt, hv]

theorem ruleCode_lutRcon (a : Byte) (s : State) :
    ruleCode (ruleOf (.lutRcon a) s) = if a = 0 ∨ 10 < a.toNat then 5 else 0 := by
  have hzero : a = 0 ↔ a.toNat = 0 := BitVec.toNat_eq
  rcases lutRconRule_cases a s with ⟨harg, h⟩ | ⟨c, -, harg, h⟩
  · rw [h, if_pos (harg.imp_left hzero.2), ruleCode_error, code_illegalArgument]
  · rw [h, if_neg (mt (Or.imp_left hzero.1) harg), ruleCode_ok]

end Sys2Proof.Machine

open Sys2Proof Sys2Proof.Machine

/-- Settles O12: a word's rule is the rule on the snapshot, which the two states share. -/
theorem resultDependsOnlyOnWordAndSnapshot : Obligations.ResultDependsOnlyOnWordAndSnapshot := by
  intro v s s' hkey hdin hstate hrk hvalid
  have hrule : wordRule v s' = wordRule v s := by
    rw [← wordRule_snapshot v s', snapshot_eq hkey hdin hstate hrk hvalid, wordRule_snapshot]
  exact ⟨finish (wordRule v s), acceptWord_eq_accept v s, hrule ▸ acceptWord_eq_accept v s'⟩

/-- Settles O17: PENDING holds the Result of the word's rule, which raised the error. -/
theorem errorChangesOnlyErr : Obligations.ErrorChangesOnlyErr := by
  intro v s t r hacc hpending herr
  obtain rfl : accept (finish (wordRule v s)) s = t := by simpa [acceptWord_eq_accept] using hacc
  obtain rfl : finish (wordRule v s) = r := by simpa using hpending
  have hrule := eq_error_of_finish_err_ne_success herr
  rw [hrule, complete_accept_raise, finish_error]

/-- Settles O18: each rule makes its checks in the order of R302; the commands without a check raise nothing. -/
theorem errReportsTheFirstFailingCheck : Obligations.ErrReportsTheFirstFailingCheck := by
  intro v s
  refine ⟨_, acceptWord_eq_accept v s, ?_⟩
  rw [complete_accept_err]
  cases hd : decode v with
  | illegal why => rw [wordRule_of_illegal s hd, ruleCode_error, code_illegalCommand]
  | command i =>
    have hrule : wordRule v s = ruleOf i s := by simp [wordRule, hd]
    rw [hrule]
    cases i with
    | keyExpand len => exact ruleCode_keyExpandRule len s
    | encrypt len => exact ruleCode_encryptRule len s
    | decrypt len => exact ruleCode_decryptRule len s
    | addRoundKey k | encRound k | encLast k | decRound k | decLast k => exact ruleCode_keyedRule _ k s
    | lutRcon a => exact ruleCode_lutRcon a s
    | nop | loadState | subBytes | invSubBytes | shiftRows | invShiftRows | mixColumns | invMixColumns
    | lutSbox _ | lutInvSbox _ | lutGfMul _ _ => rfl
end

section
/-! Reset (R330) and the writes of the busy window (R336): what the reset input is, what each register reads after reset, and
the registers whose writes are always ignored. -/

namespace Sys2Proof.Machine

/-- R330, R331: the reset input leaves only the host's operations, what it has read and the draw counter (log 3, log 5). -/
theorem hostOp_reset (s : State) : hostOp .reset s = .next (applyReset s) := rfl

/-- STATUS stands at one offset only (R37). -/
theorem regAt_eq_status (off : Nat) (h : regAt off = .status) : off = 0x04 := by
  unfold regAt at h
  split at h <;> simp_all

/-! ## Reads after reset -/

/-- A zero block shows 0 in each of its four registers. -/
theorem pack_col_zero (n : Fin 4) : pack (Block.zero.col n) = 0 := by fin_cases n <;> rfl

/-- After reset RKDATA shows RK[0], which is zero. -/
theorem rkdataView_reset (n : Fin 4) : rkdataView State.reset n = 0 := by
  rw [rkdataView_of_roundKey State.reset n Block.zero rfl, pack_col_zero]

/-- After reset every register but STATUS reads 0: it is the constant 0 or shows an element that is zero. -/
theorem readValue_reset_of_ne_status (r : WindowReg) (h : r ≠ .status) : readValue r State.reset = 0 := by
  cases r with
  | status => exact absurd rfl h
  | key n | din n => exact pack_col_zero n
  | dout n => exact (readValue_dout_of_idle n State.reset rfl).trans (pack_col_zero n)
  | rkdata n => exact (readValue_rkdata_of_idle n State.reset rfl).trans (rkdataView_reset n)
  | ctrl | rksel | lut | reserved => rfl

/-! ## Writes that are ignored at all times (R272, R336) -/

@[simp] theorem busWrite_dout (n : Fin 4) (v : Reg32) (s : State) : busWrite (.dout n) v s = .next s := rfl
@[simp] theorem busWrite_lut (v : Reg32) (s : State) : busWrite .lut v s = .next s := rfl

end Sys2Proof.Machine

open Sys2Proof Sys2Proof.Machine

/-- Settles O1: the table is `State.reset` field by field; STATUS then shows HWACC alone, and no other offset names it. -/
theorem resetStateIsTheResetTable : Obligations.ResetStateIsTheResetTable := by
  refine ⟨rfl, rfl, rfl, rfl, rfl, rfl, rfl, rfl, rfl, rfl, rfl, rfl, hostOp_reset, ?_, fun off _ _ hoff => ?_⟩
  · rw [readValue_status, statusView_reset]
    cases Config.hwAccelPresent <;> rfl
  · exact readValue_reset_of_ne_status _ (mt (regAt_eq_status off) hoff)

/-- Settles O46: a busy write is `dropWrite`, a STATUS write only clears WDROP, and the other registers keep the state. -/
theorem busyWritesAreDroppedAndSetWdrop : Obligations.BusyWritesAreDroppedAndSetWdrop := by
  intro s v
  refine ⟨fun r => busWrite_of_busy r v s, busWrite_status v s, fun r hr => ?_⟩
  rcases hr with rfl | rfl | ⟨n, rfl | rfl⟩
  · exact busWrite_lut v s
  · exact busWrite_reserved v s
  · exact busWrite_dout n v s
  · exact busWrite_rkdata n v s
end

section
/-! The step, one equation per kind of event (R274), and the invariant of the core: every operation keeps it, so every step
does. -/

namespace Sys2Proof.Machine

/-! ## The step, event by event (R274) -/

theorem step_of_atEnd {s : State} (h : s.AtEnd) : step s = .next s := by
  obtain ⟨hh, hb⟩ := h
  simp [step, turn, hh, hb]

/-- The completion step is the next event once the host has no operation, or polls, or the turns are used up (log 4). -/
theorem step_of_completes {s : State} (hb : s.busy = true)
    (hw : s.host = [] ∨ s.turns = 0 ∨ ∃ rest, s.host = .poll :: rest) : step s = .next (complete s) := by
  cases hh : s.host with
  | nil => simp [step, turn, hh, hb]
  | cons op rest =>
    have hlast : (op.waits || s.turns == 0) = true := by
      rcases hw with hnil | ht | ⟨rest', hpoll⟩
      · cases hh.symm.trans hnil
      · simp [ht]
      · cases hh.symm.trans hpoll
        rfl
    simp [step, turn, hh, hb, hlast]

theorem step_of_idle {s : State} {op : HostOp} {rest : List HostOp} (hh : s.host = op :: rest) (hb : s.busy = false) :
    step s = hostOp op { s with host := rest } := by
  simp [step, turn, hh, hb]

/-- Only a poll waits for the core (R102). -/
theorem waits_eq_false_of_ne_poll {op : HostOp} (h : op ≠ .poll) : op.waits = false := by
  cases op with
  | poll => exact absurd rfl h
  | read | write | reset => rfl

theorem step_of_busy {s : State} {op : HostOp} {rest : List HostOp} {n : Nat} (hh : s.host = op :: rest)
    (hb : s.busy = true) (hop : op ≠ .poll) (ht : s.turns = n + 1) :
    step s = hostOp op { s with host := rest, turns := n } := by
  simp [step, turn, hh, hb, ht, waits_eq_false_of_ne_poll hop]

/-! ## The invariant of the core -/

theorem proper_raise (e : ErrCode) : (Result.raise e).Proper := ⟨fun _ => rfl, .inl ⟨rfl, rfl⟩⟩

/-- Every command leaves a proper Result in PENDING (R301, R170). -/
theorem proper_finish_ruleOf (i : Instr) (s : State) : (finish (ruleOf i s)).Proper := by
  rcases ruleOf_cases i s with ⟨e, -, h⟩ | h | ⟨b, h⟩ | ⟨v, h⟩ | ⟨-, h⟩ <;> rw [h]
  · exact proper_raise e
  · exact ⟨absurd rfl, .inl ⟨rfl, rfl⟩⟩
  · exact ⟨absurd rfl, .inl ⟨rfl, rfl⟩⟩
  · exact ⟨absurd rfl, .inl ⟨rfl, rfl⟩⟩
  · exact ⟨absurd rfl, .inr ⟨rfl, s.key, rfl⟩⟩

/-- A legal word's rule is that of its command (R100). -/
theorem wordRule_of_command {v : Reg32} {i : Instr} (s : State) (h : Sys2Proof.decode v = .command i) :
    wordRule v s = ruleOf i s := by simp [wordRule, h]

theorem proper_finish_wordRule (v : Reg32) (s : State) : (finish (wordRule v s)).Proper := by
  cases hd : Sys2Proof.decode v with
  | command i => exact wordRule_of_command s hd ▸ proper_finish_ruleOf i s
  | illegal why => exact wordRule_of_illegal s hd ▸ proper_raise .illegalCommand

/-- The reset input leads to a state that meets the invariant from every state (R330). -/
theorem inv_applyReset (s : State) : (applyReset s).Inv :=
  ⟨rfl, fun r hr => absurd hr.symm (Option.some_ne_none r), Nat.zero_le 5, fun h => absurd h Bool.false_ne_true,
    fun _ => rfl, rfl⟩

theorem inv_accept {s : State} {r : Result} (hs : s.Inv) (hr : r.Proper) : (accept r s).Inv := by
  obtain ⟨-, -, herr, hvalid, hinvalid, hpath⟩ := hs
  refine ⟨rfl, fun r' hr' => ?_, herr, hvalid, hinvalid, hpath⟩
  obtain rfl : r = r' := Option.some.inj hr'
  exact hr

/-- A write that is no command touches none of what the invariant speaks of. -/
theorem inv_writeReg {s : State} (r : WindowReg) (v : Reg32) (hs : s.Inv) : (writeReg r v s).Inv := by
  rcases writeReg_cases r v s with h | ⟨-, -, h⟩ | ⟨-, -, h⟩ | ⟨n, -, -, h⟩ | ⟨n, -, -, h⟩ | ⟨-, -, h⟩ <;> rw [h] <;>
    exact hs

/-- A proper Result writes RK and KEY_VALID together or leaves both. -/
theorem inv_complete {s : State} (hs : s.Inv) : (complete s).Inv := by
  obtain ⟨-, hproper, herr, hvalid, hinvalid, hpath⟩ := hs
  cases hp : s.pending with
  | none =>
    simp only [complete, hp]
    exact ⟨rfl, fun r hr => absurd hr.symm (Option.some_ne_none r), herr, hvalid, hinvalid, hpath⟩
  | some r =>
    rw [complete_of_pending s r hp]
    refine ⟨rfl, fun r' hr' => absurd hr'.symm (Option.some_ne_none r'), code_le_five r.err, ?_⟩
    rcases (hproper r hp).2 with ⟨hrk, hkv⟩ | ⟨hkv, k, hrk⟩
    · simpa only [commit, hrk, hkv] using ⟨hvalid, hinvalid, hpath⟩
    · simpa only [commit, hrk, hkv] using ⟨fun _ => ⟨k, rfl⟩, fun h => absurd h.symm Bool.false_ne_true, hpath⟩

theorem inv_hostOp {op : HostOp} {s t : State} (hs : s.Inv) (h : hostOp op s = .next t) : t.Inv := by
  rcases hostOp_cases op s t h with
    ⟨-, rfl⟩ | ⟨r, rfl, -⟩ | ⟨w, a, v, r, -, -, ⟨-, -, rfl⟩ | ⟨-, -, rfl⟩ | ⟨-, rfl⟩⟩
  · exact inv_applyReset s
  · exact hs
  · exact hs
  · exact inv_accept hs (proper_finish_wordRule v s)
  · exact inv_writeReg r v hs

end Sys2Proof.Machine

open Sys2Proof Sys2Proof.Machine

/-- Settles O4: the completion step and every host operation keep the invariant, which does not speak of the host's
operations or the turns. -/
theorem everyStepKeepsTheCoreInvariant : Obligations.EveryStepKeepsTheCoreInvariant := by
  intro s t hs h
  rcases step_next_cases s t h with rfl | rfl | ⟨op, rest, n, -, -, hop⟩
  · exact hs
  · exact inv_complete hs
  · exact inv_hostOp (s := { s with host := rest, turns := n }) hs hop

/-- Settles O3: the reset input leaves the reset state as it is. -/
theorem resetStateMeetsTheCoreInvariant : Obligations.ResetStateMeetsTheCoreInvariant :=
  inv_applyReset State.reset

/-- Settles O14, by the two equations of the step that serve the host. -/
theorem hostOperationsAreServedInOrder : Obligations.HostOperationsAreServedInOrder := fun _ _ _ hh =>
  ⟨step_of_idle hh, fun _ => step_of_busy hh⟩

/-- Settles O13: the completion step is the next event, and commits PENDING. -/
theorem completionCommitsPending : Obligations.CompletionCommitsPending := by
  intro s r hb hp hw
  rw [step_of_completes hb hw, complete_of_pending s r hp]
  rfl

/-- Settles O16, by the equation of the step at the end of a run. -/
theorem idleCoreHoldsItsState : Obligations.IdleCoreHoldsItsState := fun _ => step_of_atEnd

/-- Settles O2: the reset is served before the completion step, and discards PENDING. -/
theorem resetAbortsThePendingCommand : Obligations.ResetAbortsThePendingCommand := by
  intro s rest hb ht hh
  obtain ⟨n, hn⟩ := Nat.exists_eq_succ_of_ne_zero ht
  rw [step_of_busy hh hb nofun hn, hostOp_reset]
  rfl
end

section
/-! Encoding and decoding are inverse to each other (R91 to R101): a word decodes to the command in its opcode's row exactly
when the bits its format requires are 0, and then it is assembled from its opcode and fields. -/

namespace Sys2Proof

/-! ## A word against a row of the opcode table (R99) -/

theorem and_opMask (v : Reg32) : v &&& 0x1F = BitVec.ofNat 32 (opField v) := by
  apply BitVec.eq_of_toNat_eq
  rw [BitVec.toNat_and, show (0x1F : Reg32).toNat = 2 ^ 5 - 1 from rfl, Nat.and_two_pow_sub_one_eq_mod]
  simp only [opField, BitVec.extractLsb'_toNat, BitVec.toNat_ofNat, Nat.shiftRight_zero]
  omega

theorem opField_lt (v : Reg32) : opField v < 32 := (v.extractLsb' 0 5).isLt

/-- No format requires a bit of OP to be 0 (R92). -/
theorem ofNat_and_fixedZero (fmt : Format) {op : Nat} (hop : op < 32) : BitVec.ofNat 32 op &&& fixedZero fmt = 0 := by
  have hall : ∀ op : Fin 32, BitVec.ofNat 32 op &&& fixedZero fmt = 0 := by cases fmt <;> decide
  exact hall ⟨op, hop⟩

/-- A word matches a row when its OP is the row's opcode and the bits the format requires are 0. -/
theorem and_rowMask_eq_iff (v : Reg32) (fmt : Format) {op : Nat} (hop : op < 32) :
    v &&& rowMask fmt = BitVec.ofNat 32 op ↔ opField v = op ∧ v &&& fixedZero fmt = 0 := by
  have hsplit : v &&& rowMask fmt = (v &&& fixedZero fmt) ||| BitVec.ofNat 32 (opField v) := by
    rw [rowMask, BitVec.and_or_distrib_left, and_opMask]
  rw [hsplit]
  constructor
  · intro h
    have hz : v &&& fixedZero fmt = 0 := by
      calc v &&& fixedZero fmt
          = ((v &&& fixedZero fmt) ||| BitVec.ofNat 32 (opField v)) &&& fixedZero fmt := by
            rw [BitVec.and_or_distrib_right, ofNat_and_fixedZero fmt (opField_lt v), BitVec.and_assoc, BitVec.and_self]
            simp
        _ = 0 := by rw [h, ofNat_and_fixedZero fmt hop]
    refine ⟨?_, hz⟩
    have hnat := congrArg BitVec.toNat h
    have hlt := opField_lt v
    simp only [hz, BitVec.ofNat_eq_ofNat, BitVec.zero_or, BitVec.toNat_ofNat] at hnat
    omega
  · rintro ⟨rfl, hz⟩
    simp [hz]

/-! ## What a word decodes to -/

/-- `decode` at an opcode with a row, in a word with the required zeros (R99). -/
theorem decode_of_opcodeMap_some {v : Reg32} {fmt : Format} {i : Instr} (h : opcodeMap (opField v) v = some (fmt, i))
    (hz : v &&& fixedZero fmt = 0) : decode v = .command i := by
  simp [decode, h, hz]

/-- A word decodes to the command its opcode's row makes of its fields, and to no other (R99). -/
theorem decode_eq_command_iff (v : Reg32) (i : Instr) :
    decode v = .command i ↔ opcodeMap (opField v) v = some (formatOf i, i) ∧ v &&& fixedZero (formatOf i) = 0 := by
  constructor
  · intro hd
    cases hm : opcodeMap (opField v) v with
    | none => cases hd.symm.trans (decode_of_opcodeMap_none hm)
    | some row =>
      obtain ⟨fmt, j⟩ := row
      obtain ⟨-, rfl⟩ := opcodeMap_eq_some hm
      by_cases hz : v &&& fixedZero (formatOf j) = 0
      · cases hd.symm.trans (decode_of_opcodeMap_some hm hz)
        exact ⟨rfl, hz⟩
      · obtain ⟨why, hill⟩ := (decode_illegal_iff_of_opcodeMap_some hm).2 hz
        cases hd.symm.trans hill
  · rintro ⟨hm, hz⟩
    exact decode_of_opcodeMap_some hm hz

/-- An opcode has one format (R93). -/
theorem formatOf_eq_of_opcode_eq {i j : Instr} (h : opcode i = opcode j) : formatOf i = formatOf j := by
  obtain ⟨i', hi⟩ := opcodeMap_opcode i 0
  obtain ⟨j', hj⟩ := opcodeMap_opcode j 0
  rw [h, hj] at hi
  exact (congrArg Prod.fst (Option.some.inj hi)).symm

/-! ## The word of a command (R101) -/

theorem opField_encode (i : Instr) : opField (encode i) = opcode i := opField_assemble _ _ _ (opcode_lt i)
theorem fieldA_encode (i : Instr) : fieldA (encode i) = operandA i := fieldA_assemble _ _ _ (opcode_lt i)
theorem fieldB_encode (i : Instr) : fieldB (encode i) = operandB i := fieldB_assemble _ _ _ (opcode_lt i)

/-- RKIDX is the low half of field A (R92). -/
theorem fieldK_eq_fieldA_mod (v : Reg32) : fieldK v = (fieldA v).toNat % 16 := by
  simp only [fieldK, fieldA, BitVec.extractLsb'_toNat]
  omega

/-- The word of a well-formed command has the zeros its format requires: it matches its row. -/
theorem encode_and_fixedZero {i : Instr} (h : i.wellFormed = true) : encode i &&& fixedZero (formatOf i) = 0 := by
  have hrow : Laws.EncodeMatchesRow.Statement i := fun _ => by
    cases i with
    | nop | loadState | subBytes | invSubBytes | shiftRows | invShiftRows | mixColumns | invMixColumns => decide
    | keyExpand _ | encrypt _ | decrypt _ | lutSbox _ | lutInvSbox _ | lutRcon _ =>
      exact Laws.assemble_matches_byte _ _ (opcode_lt _)
    | addRoundKey _ | encRound _ | encLast _ | decRound _ | decLast _ =>
      exact Laws.assemble_matches_index _ _ (opcode_lt _) (of_decide_eq_true h)
    | lutGfMul _ _ => exact Laws.assemble_matches_two _ _ _ (opcode_lt _)
  exact ((and_rowMask_eq_iff _ _ (opcode_lt i)).1 (hrow h)).2

/-- The row of a command's opcode reads the command back from its word. -/
theorem opcodeMap_encode {i : Instr} (h : i.wellFormed = true) :
    opcodeMap (opcode i) (encode i) = some (formatOf i, i) := by
  have hA := fieldA_encode i
  have hB := fieldB_encode i
  have hK := fieldK_eq_fieldA_mod (encode i)
  rw [hA] at hK
  cases i with
  | nop | loadState | subBytes | invSubBytes | shiftRows | invShiftRows | mixColumns | invMixColumns => rfl
  | keyExpand len | encrypt len | decrypt len =>
    have hlen : len < 256 := of_decide_eq_true h
    simp [opcodeMap, opcode, formatOf, hA, operandA, Nat.mod_eq_of_lt hlen]
  | addRoundKey k | encRound k | encLast k | decRound k | decLast k =>
    have hk : k < 16 := of_decide_eq_true h
    have hmod : k % 256 % 16 = k := by omega
    simp [opcodeMap, opcode, formatOf, hK, operandA, hmod]
  | lutSbox a | lutInvSbox a | lutRcon a => simp [opcodeMap, opcode, formatOf, hA, operandA]
  | lutGfMul a b => simp [opcodeMap, opcode, formatOf, hA, hB, operandA, operandB]

/-! ## The fields of a word with the required zeros -/

/-- Field A as the format uses it (R92). -/
def Format.operandA : Format → Reg32 → Byte
  | .n, _ => 0
  | .k, v => BitVec.ofNat 8 (fieldK v)
  | .l, v | .t, v | .t2, v => fieldA v

/-- Field B as the format uses it (R92). -/
def Format.operandB : Format → Reg32 → Byte
  | .t2, v => fieldB v
  | .n, _ | .l, _ | .k, _ | .t, _ => 0

/-- A row makes a well-formed command of its format's operands. -/
theorem operands_of_opcodeMap {op : Nat} {v : Reg32} {fmt : Format} {i : Instr} (h : opcodeMap op v = some (fmt, i)) :
    operandA i = fmt.operandA v ∧ operandB i = fmt.operandB v ∧ i.wellFormed = true := by
  have hlen : (fieldA v).toNat < 256 := (fieldA v).isLt
  have hk : fieldK v < 16 := (v.extractLsb' 8 4).isLt
  unfold opcodeMap at h
  split at h <;> cases h <;>
    simp [operandA, operandB, Format.operandA, Format.operandB, Instr.wellFormed, lenFits, rkidxFits, hlen, hk]

/-- A field whose bits are all required to be 0 is 0. -/
theorem extractLsb'_eq_zero {v m : Reg32} (hz : v &&& m = 0) {start len : Nat}
    (hm : m.extractLsb' start len = BitVec.allOnes len) : v.extractLsb' start len = 0 := by
  have hfield : (v &&& m).extractLsb' start len = v.extractLsb' start len := by
    rw [BitVec.extractLsb'_and, hm, BitVec.and_allOnes]
  rw [← hfield, hz]
  simp

/-- Field A is 0 in format N and has only its low half in format K. -/
theorem fieldA_eq_operandA {v : Reg32} {fmt : Format} (hz : v &&& fixedZero fmt = 0) : fieldA v = fmt.operandA v := by
  cases fmt with
  | n => exact extractLsb'_eq_zero hz (by decide)
  | k =>
    have hhigh : (v.extractLsb' 12 4).toNat = 0 := congrArg BitVec.toNat (extractLsb'_eq_zero hz (by decide))
    apply BitVec.eq_of_toNat_eq
    simp only [Format.operandA, fieldA, fieldK, BitVec.extractLsb'_toNat, BitVec.toNat_ofNat,
      Nat.shiftRight_eq_div_pow] at hhigh ⊢
    omega
  | l | t | t2 => rfl

/-- Field B is 0 outside format T2. -/
theorem fieldB_eq_operandB {v : Reg32} {fmt : Format} (hz : v &&& fixedZero fmt = 0) : fieldB v = fmt.operandB v := by
  cases fmt with
  | n | l | k | t => exact extractLsb'_eq_zero hz (by decide)
  | t2 => rfl

/-- What T2 requires to be 0, every format does. -/
theorem and_fixedZero_t2 {v : Reg32} {fmt : Format} (hz : v &&& fixedZero fmt = 0) : v &&& fixedZero .t2 = 0 := by
  have hsub : fixedZero .t2 = fixedZero fmt &&& fixedZero .t2 := by cases fmt <;> rfl
  rw [hsub, ← BitVec.and_assoc, hz]
  exact BitVec.zero_and

/-- A word with 0 in bits [7:5] and [31:24] is the sum of OP and its two fields (R91). -/
theorem toNat_eq_fields {v : Reg32} (hz : v &&& fixedZero .t2 = 0) :
    v.toNat = opField v + (fieldA v).toNat * 2 ^ 8 + (fieldB v).toNat * 2 ^ 16 := by
  have hlow : (v.extractLsb' 5 3).toNat = 0 := congrArg BitVec.toNat (extractLsb'_eq_zero hz (by decide))
  have hhigh : (v.extractLsb' 24 8).toNat = 0 := congrArg BitVec.toNat (extractLsb'_eq_zero hz (by decide))
  have hlt := v.isLt
  simp only [opField, fieldA, fieldB, BitVec.extractLsb'_toNat, Nat.shiftRight_eq_div_pow] at hlow hhigh ⊢
  omega

/-- Such a word is assembled from OP and its two fields (R101). -/
theorem eq_assemble {v : Reg32} (hz : v &&& fixedZero .t2 = 0) : v = assemble (opField v) (fieldA v) (fieldB v) := by
  have hop := opField_lt v
  have hz' := ((and_rowMask_eq_iff _ _ hop).1 (Laws.assemble_matches_two _ (fieldA v) (fieldB v) hop)).2
  apply BitVec.eq_of_toNat_eq
  rw [toNat_eq_fields hz, toNat_eq_fields hz', opField_assemble _ _ _ hop, fieldA_assemble _ _ _ hop,
    fieldB_assemble _ _ _ hop]

/-- The word of a row's command, in a word with the zeros its format requires, is that word. -/
theorem encode_of_opcodeMap {v : Reg32} {fmt : Format} {i : Instr} (hm : opcodeMap (opField v) v = some (fmt, i))
    (hz : v &&& fixedZero fmt = 0) : encode i = v := by
  obtain ⟨hA, hB, -⟩ := operands_of_opcodeMap hm
  calc encode i
      = assemble (opField v) (fieldA v) (fieldB v) := by
        rw [encode, (opcodeMap_eq_some hm).1, hA, hB, fieldA_eq_operandA hz, fieldB_eq_operandB hz]
    _ = v := (eq_assemble (and_fixedZero_t2 hz)).symm

/-! ## Encoding and decoding are inverse -/

theorem decode_encode {i : Instr} (h : i.wellFormed = true) : decode (encode i) = .command i :=
  (decode_eq_command_iff (encode i) i).2 ⟨(opField_encode i).symm ▸ opcodeMap_encode h, encode_and_fixedZero h⟩

theorem encode_of_decode {v : Reg32} {i : Instr} (hd : decode v = .command i) : encode i = v := by
  obtain ⟨hm, hz⟩ := (decode_eq_command_iff v i).1 hd
  exact encode_of_opcodeMap hm hz

theorem wellFormed_of_decode {v : Reg32} {i : Instr} (hd : decode v = .command i) : i.wellFormed = true := by
  obtain ⟨hm, -⟩ := (decode_eq_command_iff v i).1 hd
  obtain ⟨-, -, hwf⟩ := operands_of_opcodeMap hm
  exact hwf

end Sys2Proof

open Sys2Proof Sys2Proof.Machine

/-- Settles O5: a well-formed command's word carries its opcode, its operands and the zeros of its format, so its row reads
the command back. -/
theorem decodeOfEncodeIsTheCommand : Obligations.DecodeOfEncodeIsTheCommand := fun _ => decode_encode

/-- Settles O6: the zeros of the format leave nothing in the word but the opcode and the operands. -/
theorem encodeOfDecodeIsTheWord : Obligations.EncodeOfDecodeIsTheWord := fun _ _ hd =>
  ⟨encode_of_decode hd, wellFormed_of_decode hd⟩

/-- Settles O7: to match a row is to have its opcode and the zeros of its format, which is what the decoder asks. -/
theorem decodeFollowsMaskAndMatch : Obligations.DecodeFollowsMaskAndMatch := by
  intro v j
  refine (and_rowMask_eq_iff v (formatOf j) (opcode_lt j)).trans ⟨?_, ?_⟩
  · rintro ⟨hop, hz⟩
    obtain ⟨i, hrow⟩ := opcodeMap_opcode j v
    exact ⟨i, decode_of_opcodeMap_some (hop.symm ▸ hrow) hz, (opcodeMap_eq_some hrow).1⟩
  · rintro ⟨i, hd, hop⟩
    obtain ⟨hm, hz⟩ := (decode_eq_command_iff v i).1 hd
    exact ⟨(opcodeMap_eq_some hm).1.symm.trans hop, formatOf_eq_of_opcode_eq hop ▸ hz⟩

/-- Settles O9: eleven fixed words, which the decoder evaluates. -/
theorem sampleWordsDecode : Obligations.SampleWordsDecode := by
  unfold Obligations.SampleWordsDecode
  decide
end

section
/-! Key and data do not reach the control (R131, R333): a step of a state with key and data taken out has the public outcome
of the step of the state itself. One lemma per operation, from the rule of a command up to the step. -/

namespace Sys2Proof

/-- A command with the arguments of LUT_SBOX, LUT_INV_SBOX and LUT_GF_MUL taken out (R333). -/
def Instr.public : Instr → Instr
  | .lutSbox _ => .lutSbox 0
  | .lutInvSbox _ => .lutInvSbox 0
  | .lutGfMul _ _ => .lutGfMul 0 0
  | i => i

theorem Instr.public_public (i : Instr) : i.public.public = i.public := by cases i <;> rfl

theorem Instr.wellFormed_public {i : Instr} (h : i.wellFormed = true) : i.public.wellFormed = true := by
  cases i with
  | lutSbox | lutInvSbox | lutGfMul => rfl
  | _ => exact h

namespace Machine

/-! ## Words and values written -/

theorem publicWord_of_illegal {v : Reg32} {why : IllegalReason} (h : Sys2Proof.decode v = .illegal why) :
    publicWord v = v := by
  simp [publicWord, h]

theorem publicWord_of_command {v : Reg32} {i : Instr} (h : Sys2Proof.decode v = .command i) :
    publicWord v = encode i.public := by
  have hword : encode i = v := encode_of_decode h
  cases i <;> simp [publicWord, h, Instr.public, hword]

theorem decode_publicWord {v : Reg32} {i : Instr} (h : Sys2Proof.decode v = .command i) :
    Sys2Proof.decode (publicWord v) = .command i.public := by
  rw [publicWord_of_command h]
  exact decode_encode (Instr.wellFormed_public (wellFormed_of_decode h))

theorem publicWord_publicWord (v : Reg32) : publicWord (publicWord v) = publicWord v := by
  cases hd : Sys2Proof.decode v with
  | command i => rw [publicWord_of_command (decode_publicWord hd), Instr.public_public, publicWord_of_command hd]
  | illegal why => rw [publicWord_of_illegal hd, publicWord_of_illegal hd]

/-- A value written to a register, with key, data and lookup arguments taken out. -/
def publicValue (r : WindowReg) (v : Reg32) : Reg32 :=
  match r with
  | .ctrl => publicWord v
  | .key _ | .din _ => 0
  | .status | .dout _ | .rksel | .rkdata _ | .lut | .reserved => v

theorem public_write_of_ok {w : Nat} {a : BusAddr} {r : WindowReg} (v : Reg32) (h : checkAccess ⟨.write, w, a⟩ = .ok r) :
    (HostOp.write w a v).public = .write w a (publicValue r v) := by
  cases r <;> simp only [HostOp.public, h] <;> rfl

theorem public_write_of_error {w : Nat} {a : BusAddr} {f : Fault} (v : Reg32)
    (h : checkAccess ⟨.write, w, a⟩ = .error f) : (HostOp.write w a v).public = .write w a v := by
  simp only [HostOp.public, h]

/-! ## Taking key and data out a second time changes nothing -/

theorem HostOp.public_public (op : HostOp) : op.public.public = op.public := by
  cases op with
  | read | poll | reset => rfl
  | write w a v =>
    cases hc : checkAccess ⟨.write, w, a⟩ with
    | error f => rw [public_write_of_error v hc, public_write_of_error v hc]
    | ok r =>
      rw [public_write_of_ok v hc, public_write_of_ok _ hc]
      cases r <;> simp only [publicValue, publicWord_publicWord]

theorem Result.public_public (r : Result) : r.public.public = r.public := by
  simp [Result.public, Function.comp_def]

theorem State.public_public (s : State) : s.public.public = s.public := by
  simp [State.public, Function.comp_def, Result.public_public, HostOp.public_public]

/-! ## Rules -/

/-- Two rules that fail the same check, or go on alike, have the same public Result. -/
theorem public_finish_bind {α : Type} {check check' : Except ErrCode α} {rest rest' : α → Except ErrCode Writes}
    (hcheck : check'.map (fun _ => ()) = check.map (fun _ => ()))
    (hrest : ∀ x' x, (finish (rest' x')).public = (finish (rest x)).public) :
    (finish (check' >>= rest')).public = (finish (check >>= rest)).public := by
  cases check' with
  | error e' =>
    cases check with
    | error e => cases hcheck; rfl
    | ok x => cases hcheck
  | ok x' =>
    cases check with
    | error e => cases hcheck
    | ok x => exact hrest x' x

/-- Whether RKIDX names a round key does not depend on RK (R95). -/
theorem operandRoundKey_map_unit (k : Nat) (rk rk' : Schedule) :
    (operandRoundKey k rk').map (fun _ => ()) = (operandRoundKey k rk).map (fun _ => ()) := by
  by_cases hk : 10 < k
  · rw [operandRoundKey_of_gt k rk' hk, operandRoundKey_of_gt k rk hk]
  · obtain ⟨key, hkey⟩ := Option.ne_none_iff_exists'.1 (mt (roundKey_eq_none_iff rk k).1 hk)
    obtain ⟨key', hkey'⟩ := Option.ne_none_iff_exists'.1 (mt (roundKey_eq_none_iff rk' k).1 hk)
    rw [operandRoundKey_of_some k rk key hkey, operandRoundKey_of_some k rk' key' hkey']
    rfl

/-- What a rule writes to STATE is data, and so are the round keys (R24). -/
theorem public_finish_stateRule (b b' : Block) : (finish (stateRule b')).public = (finish (stateRule b)).public := rfl

theorem public_finish_schedule (rk rk' : Schedule) :
    (finish (.ok { rk := some rk', keyValid := some true })).public =
      (finish (.ok { rk := some rk, keyValid := some true })).public := rfl

/-- Which elements a command writes, and its code, depend on the command and on KEY_VALID alone. -/
theorem public_finish_ruleOf (i : Instr) {s s' : State} (hv : s'.keyValid = s.keyValid) :
    (finish (ruleOf i s')).public = (finish (ruleOf i s)).public := by
  have hvalid (b' b : Block) : (finish (requireSchedule s'.keyValid >>= fun _ => stateRule b')).public =
      (finish (requireSchedule s.keyValid >>= fun _ => stateRule b)).public :=
    public_finish_bind (by rw [hv]) fun _ _ => public_finish_stateRule b b'
  cases i with
  | keyExpand len => exact public_finish_bind rfl fun _ _ => public_finish_schedule _ _
  | encrypt len | decrypt len => exact public_finish_bind rfl fun _ _ => hvalid _ _
  | addRoundKey k | encRound k | encLast k | decRound k | decLast k =>
    exact public_finish_bind (operandRoundKey_map_unit k s.rk s'.rk) fun _ _ => hvalid _ _
  | loadState | subBytes | invSubBytes | shiftRows | invShiftRows | mixColumns | invMixColumns =>
    exact public_finish_stateRule _ _
  | nop | lutSbox _ | lutInvSbox _ | lutRcon _ | lutGfMul _ _ => rfl

theorem public_finish_ruleOf_public (i : Instr) (s : State) :
    (finish (ruleOf i.public s)).public = (finish (ruleOf i s)).public := by
  cases i <;> rfl

theorem public_finish_wordRule (v : Reg32) (s : State) :
    (finish (wordRule (publicWord v) s.public)).public = (finish (wordRule v s)).public := by
  cases hd : Sys2Proof.decode v with
  | command i =>
    rw [wordRule_of_command s hd, wordRule_of_command s.public (decode_publicWord hd), public_finish_ruleOf_public]
    exact public_finish_ruleOf i rfl
  | illegal why => rw [publicWord_of_illegal hd, wordRule_of_illegal s hd, wordRule_of_illegal s.public hd]

/-! ## Operations -/

theorem public_accept (r : Result) (s : State) : (accept r s).public = accept r.public s.public := rfl

theorem public_busRead (r : WindowReg) (s : State) :
    (busRead r s).public =
      { s.public with
        reads := 0 :: s.public.reads
        draws := if s.public.busy && r.drawsWhenBusy then s.public.draws + 1 else s.public.draws } := rfl

theorem getD_map_const {α : Type} (o : Option α) (c : α) : (o.map fun _ => c).getD c = c :=
  Option.getD_map (fun _ => c) c o

theorem public_complete (s : State) : (complete s).public = complete s.public := by
  cases hp : s.pending with
  | none => simp [complete, hp, State.public]
  | some r => simp [complete, hp, State.public, Result.public, commit, getD_map_const]

theorem public_writeReg (r : WindowReg) (v : Reg32) (s : State) :
    (writeReg r (publicValue r v) s.public).public = (writeReg r v s).public := by
  have hbusy : s.public.busy = s.busy := rfl
  cases r with
  | ctrl | dout | rkdata | lut | reserved => exact s.public_public
  | status =>
    cases hv : v.getLsbD 3 with
    | true =>
      simp only [writeReg, publicValue, hv, if_true]
      exact State.public_public { s with wdrop := false }
    | false =>
      simp only [writeReg, publicValue, hv, Bool.false_eq_true, if_false]
      exact s.public_public
  | key n | din n =>
    simp only [writeReg, hbusy]
    split
    · exact (dropWrite s).public_public
    · exact s.public_public
  | rksel =>
    simp only [writeReg, publicValue, hbusy]
    split
    · exact (dropWrite s).public_public
    · exact State.public_public { s with rksel := v.extractLsb' 0 4 }

theorem publicOutcome_next {s t : State} (h : s.public = t.public) :
    publicOutcome (.next s) = publicOutcome (.next t) := congrArg Host.Outcome.next h

theorem publicOutcome_busWrite (r : WindowReg) (v : Reg32) (s : State) :
    publicOutcome (busWrite r (publicValue r v) s.public) = publicOutcome (busWrite r v s) := by
  by_cases hr : r = .ctrl
  · subst hr
    cases hb : s.busy with
    | true =>
      rw [busWrite_of_busy .ctrl _ s.public hb (.inl rfl), busWrite_of_busy .ctrl v s hb (.inl rfl)]
      exact publicOutcome_next (dropWrite s).public_public
    | false =>
      rw [busWrite_ctrl_of_idle _ s.public hb, busWrite_ctrl_of_idle v s hb, publicOutcome, publicOutcome, public_accept,
        public_accept, publicValue, public_finish_wordRule, State.public_public]
  · rw [busWrite_of_ne_ctrl r _ _ hr, busWrite_of_ne_ctrl r _ _ hr, publicOutcome, publicOutcome, public_writeReg]

theorem publicOutcome_hostOp (op : HostOp) (s : State) :
    publicOutcome (hostOp op.public s.public) = publicOutcome (hostOp op s) := by
  have hread (r : WindowReg) : (busRead r s.public).public = (busRead r s).public := by
    rw [public_busRead, public_busRead, State.public_public]
  cases op with
  | reset => exact publicOutcome_next (applyReset s).public_public
  | poll => exact publicOutcome_next (hread .status)
  | read w a =>
    cases hc : checkAccess ⟨.read, w, a⟩ with
    | error f => rw [HostOp.public, hostOp_read_of_error w a f _ hc, hostOp_read_of_error w a f _ hc]
    | ok r =>
      rw [HostOp.public, hostOp_read_of_ok w a r _ hc, hostOp_read_of_ok w a r _ hc]
      exact publicOutcome_next (hread r)
  | write w a v =>
    cases hc : checkAccess ⟨.write, w, a⟩ with
    | error f =>
      rw [public_write_of_error v hc, hostOp_write_of_error w a v f _ hc, hostOp_write_of_error w a v f _ hc]
    | ok r =>
      rw [public_write_of_ok v hc, hostOp_write_of_ok w a _ r _ hc, hostOp_write_of_ok w a v r _ hc]
      exact publicOutcome_busWrite r v s

theorem HostOp.eq_poll_of_public_eq_poll {op : HostOp} (h : op.public = .poll) : op = .poll := by
  cases op with
  | poll => rfl
  | read | reset => cases h
  | write w a v =>
    cases hc : checkAccess ⟨.write, w, a⟩ with
    | error f => cases (public_write_of_error v hc).symm.trans h
    | ok r => cases (public_write_of_ok v hc).symm.trans h

theorem publicOutcome_step (s : State) : publicOutcome (step s.public) = publicOutcome (step s) := by
  have hhost : s.public.host = s.host.map HostOp.public := rfl
  rcases step_cases s with ⟨hh, hb, hs⟩ | ⟨hb, hw, hs⟩ | ⟨op, rest, n, hh, hb, hop, ht, hs⟩ | ⟨op, rest, hh, hb, hs⟩ <;>
    rw [hs]
  · rw [step_of_atEnd (s := s.public) ⟨by simp [hhost, hh], hb⟩]
    exact publicOutcome_next s.public_public
  · have hw' : s.public.host = [] ∨ s.public.turns = 0 ∨ ∃ rest, s.public.host = .poll :: rest := by
      refine hw.imp (fun hh => ?_) (Or.imp_right fun ⟨rest, hh⟩ => ⟨rest.map HostOp.public, ?_⟩)
      · simp [hhost, hh]
      · simp [hhost, hh, HostOp.public]
    rw [step_of_completes (s := s.public) hb hw', ← public_complete]
    exact publicOutcome_next (complete s).public_public
  · have hh' : s.public.host = op.public :: rest.map HostOp.public := by simp [hhost, hh]
    rw [step_of_busy hh' hb (mt HostOp.eq_poll_of_public_eq_poll hop) ht]
    exact publicOutcome_hostOp op { s with host := rest, turns := n }
  · have hh' : s.public.host = op.public :: rest.map HostOp.public := by simp [hhost, hh]
    rw [step_of_idle hh' hb]
    exact publicOutcome_hostOp op { s with host := rest }

end Machine
end Sys2Proof

open Sys2Proof Sys2Proof.Machine

/-- Settles O58: both steps have the public outcome of the step of the public state that the two states share. -/
theorem controlDoesNotDependOnKeyOrData : Obligations.ControlDoesNotDependOnKeyOrData := by
  intro s s' h
  rw [← publicOutcome_step s, h, publicOutcome_step s']
end

section
/-! Rules of the whole machine, from what each host operation does: what changes KEY, DIN, RKSEL and the results of commands,
a host that polls, and the end of every busy window. -/

namespace Sys2Proof.Machine

/-! ## KEY, DIN and RKSEL -/

/-- What a write with BUSY = 0 to a register the host owns does to KEY, DIN and RKSEL (R40, R41, R43). -/
def HostRegisterWritten (r : WindowReg) (v : Reg32) (s t : State) : Prop :=
  (∃ n, r = .key n ∧ t.key = s.key.setCol n (unpack v) ∧ t.din = s.din ∧ t.rksel = s.rksel) ∨
  (∃ n, r = .din n ∧ t.key = s.key ∧ t.din = s.din.setCol n (unpack v) ∧ t.rksel = s.rksel) ∨
  (r = .rksel ∧ t.key = s.key ∧ t.din = s.din ∧ t.rksel = v.extractLsb' 0 4)

/-- A host operation keeps KEY, DIN and RKSEL, or is a reset, or a write to one of them with BUSY = 0. -/
theorem hostOp_hostRegisters {op : HostOp} {s t : State} (h : hostOp op s = .next t) :
    (t.key = s.key ∧ t.din = s.din ∧ t.rksel = s.rksel) ∨ (op = .reset ∧ t.rksel = 0) ∨
    ∃ w a v r, op = .write w a v ∧ checkAccess ⟨.write, w, a⟩ = .ok r ∧ s.busy = false ∧ HostRegisterWritten r v s t := by
  rcases hostOp_cases op s t h with
    ⟨rfl, rfl⟩ | ⟨r, rfl, -⟩ | ⟨w, a, v, r, rfl, hc, ⟨-, -, rfl⟩ | ⟨-, -, rfl⟩ | ⟨-, rfl⟩⟩
  · exact .inr (.inl ⟨rfl, rfl⟩)
  · exact .inl ⟨rfl, rfl, rfl⟩
  · exact .inl ⟨rfl, rfl, rfl⟩
  · exact .inl ⟨rfl, rfl, rfl⟩
  · rcases writeReg_cases r v s with h | ⟨-, -, h⟩ | ⟨-, -, h⟩ | ⟨n, hb, hr, h⟩ | ⟨n, hb, hr, h⟩ | ⟨hb, hr, h⟩ <;> rw [h]
    · exact .inl ⟨rfl, rfl, rfl⟩
    · exact .inl ⟨rfl, rfl, rfl⟩
    · exact .inl ⟨rfl, rfl, rfl⟩
    · exact .inr (.inr ⟨w, a, v, r, rfl, hc, hb, .inl ⟨n, hr, rfl, rfl, rfl⟩⟩)
    · exact .inr (.inr ⟨w, a, v, r, rfl, hc, hb, .inr (.inl ⟨n, hr, rfl, rfl, rfl⟩)⟩)
    · exact .inr (.inr ⟨w, a, v, r, rfl, hc, hb, .inr (.inr ⟨hr, rfl, rfl, rfl⟩)⟩)

/-- So does a step. -/
theorem step_hostRegisters {s t : State} (h : step s = .next t) :
    (t.key = s.key ∧ t.din = s.din ∧ t.rksel = s.rksel) ∨ (s.host.head? = some .reset ∧ t.rksel = 0) ∨
    ∃ w a v r, s.host.head? = some (.write w a v) ∧ checkAccess ⟨.write, w, a⟩ = .ok r ∧ s.busy = false ∧
      HostRegisterWritten r v s t := by
  rcases step_next_cases s t h with rfl | rfl | ⟨op, rest, n, hh, -, hop⟩
  · exact .inl ⟨rfl, rfl, rfl⟩
  · exact .inl ⟨complete_key s, complete_din s, complete_rksel s⟩
  · rcases hostOp_hostRegisters hop with hsame | ⟨rfl, hsel⟩ | ⟨w, a, v, r, rfl, hw⟩
    · exact .inl hsame
    · exact .inr (.inl ⟨by simp [hh], hsel⟩)
    · exact .inr (.inr ⟨w, a, v, r, by simp [hh], hw⟩)

/-- A write that reaches RKSEL is a 32-bit write at offset 0x40 (R37, R66). -/
theorem offset_of_checkAccess_rksel {k : AccessKind} {w : Nat} {a : BusAddr} (h : checkAccess ⟨k, w, a⟩ = .ok .rksel) :
    w = 32 ∧ a.offset = some 0x40 := by
  obtain ⟨hw, off, ho, -, -, hr⟩ := checkAccess_ok k w a _ h
  exact ⟨hw, regAt_eq_rksel off hr.symm ▸ ho⟩

/-! ## The results of commands -/

/-- The elements only a completion writes (R36). -/
def State.results (s : State) : Schedule × Bool × Block × Byte × BitVec 4 := (s.rk, s.keyValid, s.state, s.lut, s.err)

theorem writeReg_results (r : WindowReg) (v : Reg32) (s : State) : (writeReg r v s).results = s.results := by
  rcases writeReg_cases r v s with h | ⟨-, -, h⟩ | ⟨-, -, h⟩ | ⟨n, -, -, h⟩ | ⟨n, -, -, h⟩ | ⟨-, -, h⟩ <;> rw [h] <;> rfl

/-- A host operation keeps the results, unless it is a reset. -/
theorem hostOp_results {op : HostOp} {s t : State} (h : hostOp op s = .next t) :
    op = .reset ∨ t.results = s.results := by
  rcases hostOp_cases op s t h with
    ⟨rfl, -⟩ | ⟨r, rfl, -⟩ | ⟨w, a, v, r, -, -, ⟨-, -, rfl⟩ | ⟨-, -, rfl⟩ | ⟨-, rfl⟩⟩
  · exact .inl rfl
  · exact .inr rfl
  · exact .inr rfl
  · exact .inr rfl
  · exact .inr (writeReg_results r v s)

/-- BUSY = 1 with no PENDING completes by clearing BUSY alone (log 12). -/
theorem complete_results_of_not_pending {s : State} (hp : s.pending = none) : (complete s).results = s.results := by
  simp only [complete, hp]
  rfl

/-- A step keeps the results, unless it is a reset or the completion of PENDING. -/
theorem step_results {s t : State} (h : step s = .next t) :
    t.results = s.results ∨ s.host.head? = some .reset ∨ ∃ r, s.busy = true ∧ s.pending = some r ∧ t = complete s := by
  have served {op : HostOp} {rest : List HostOp} {n : Nat} (hh : s.host = op :: rest)
      (hop : hostOp op { s with host := rest, turns := n } = .next t) :
      t.results = s.results ∨ s.host.head? = some .reset := by
    rcases hostOp_results hop with rfl | hsame
    · exact .inr (by simp [hh])
    · exact .inl hsame
  rcases step_cases s with ⟨-, -, hs⟩ | ⟨hb, -, hs⟩ | ⟨op, rest, n, hh, -, -, -, hs⟩ | ⟨op, rest, hh, -, hs⟩
  · obtain rfl : s = t := by simpa [hs] using h
    exact .inl rfl
  · obtain rfl : complete s = t := by simpa [hs] using h
    cases hp : s.pending with
    | none => exact .inl (complete_results_of_not_pending hp)
    | some r => exact .inr (.inr ⟨r, hb, rfl, rfl⟩)
  · exact (served hh (hs.symm.trans h)).imp_right .inl
  · exact (served hh (hs.symm.trans h)).imp_right .inl

/-- A proper Result does not clear KEY_VALID (R25, R170). -/
theorem Result.Proper.keyValid_getD {r : Result} (h : r.Proper) : r.writes.keyValid.getD true = true := by
  obtain ⟨-, ⟨-, hkv⟩ | ⟨hkv, -⟩⟩ := h <;> rw [hkv] <;> rfl

end Sys2Proof.Machine

open Sys2Proof Sys2Proof.Machine

/-- Settles O52: of the registers the host owns, a step changes the one a write with BUSY = 0 reaches. -/
theorem onlyHostWritesChangeKeyAndDin : Obligations.OnlyHostWritesChangeKeyAndDin := by
  intro s t h
  rcases step_hostRegisters h with ⟨hkey, hdin, -⟩ | ⟨hreset, -⟩ | ⟨w, a, v, r, hh, hc, hb, hw⟩
  · exact ⟨absurd hkey, absurd hdin⟩
  · exact ⟨fun _ => .inl hreset, fun _ => .inl hreset⟩
  · rcases hw with ⟨n, rfl, hkey, hdin, -⟩ | ⟨n, rfl, hkey, hdin, -⟩ | ⟨-, hkey, hdin, -⟩
    · exact ⟨fun _ => .inr ⟨w, a, v, n, hh, hc, hb, hkey⟩, absurd hdin⟩
    · exact ⟨absurd hkey, fun _ => .inr ⟨w, a, v, n, hh, hc, hb, hdin⟩⟩
    · exact ⟨absurd hkey, absurd hdin⟩

/-- Settles O60, as O52: the write that reaches RKSEL stands at offset 0x40. -/
theorem onlyHostWritesChangeRksel : Obligations.OnlyHostWritesChangeRksel := by
  intro s t h hne
  rcases step_hostRegisters h with ⟨-, -, hsel⟩ | hreset | ⟨w, a, v, r, hh, hc, hb, hw⟩
  · exact absurd hsel hne
  · exact .inl hreset
  · rcases hw with ⟨n, -, -, -, hsel⟩ | ⟨n, -, -, -, hsel⟩ | ⟨rfl, -, -, hsel⟩
    · exact absurd hsel hne
    · exact absurd hsel hne
    · obtain ⟨rfl, ho⟩ := offset_of_checkAccess_rksel hc
      exact .inr ⟨a, v, hh, ho, hb, hsel⟩

/-- Settles O53: only the completion of PENDING and a reset touch the results, and a proper Result does not clear
KEY_VALID. -/
theorem onlyCompletionChangesTheResults : Obligations.OnlyCompletionChangesTheResults := by
  intro s t h
  rcases step_results h with hsame | hreset | ⟨r, hb, hp, rfl⟩
  · simp only [State.results, Prod.mk.injEq] at hsame
    obtain ⟨hrk, hkv, hstate, hlut, herr⟩ := hsame
    refine ⟨fun hne => ?_, fun _ hset hclear => ?_⟩
    · simp [hrk, hkv, hstate, hlut, herr] at hne
    · cases (hkv.trans hset).symm.trans hclear
  · exact ⟨fun _ => .inl hreset, fun _ _ _ => hreset⟩
  · have hc := complete_of_pending s r hp
    refine ⟨fun _ => .inr ⟨r, hb, complete_busy s, hp, ?_⟩, fun hinv hset hclear => ?_⟩
    · rw [hc]
      exact ⟨rfl, rfl, rfl, rfl, rfl⟩
    · obtain ⟨-, hproper, -⟩ := hinv
      have hkeep : (complete s).keyValid = r.writes.keyValid.getD s.keyValid := by rw [hc]; rfl
      rw [hset, (hproper r hp).keyValid_getD] at hkeep
      cases hkeep.symm.trans hclear
end

section
/-! Runs (R20, R102, R334): a host that polls, a command run by a CTRL write and a poll, and the end of every busy window. -/

namespace Sys2Proof.Machine

/-! ## A host that waits for completion (R334) -/

/-- After a host operation with BUSY = 0, BUSY = 1 exactly when it was a write to CTRL. -/
theorem hostOp_busy_eq_writesCtrl {op : HostOp} {s t : State} (hb : s.busy = false) (h : hostOp op s = .next t) :
    t.busy = op.writesCtrl := by
  rcases hostOp_cases op s t h with
    ⟨rfl, rfl⟩ | ⟨r, rfl, ⟨rfl, -⟩ | ⟨w, a, rfl, -⟩⟩ | ⟨w, a, v, r, rfl, hc, ⟨-, hb', -⟩ | ⟨rfl, -, rfl⟩ | ⟨hr, rfl⟩⟩
  · rfl
  · exact hb
  · exact hb
  · cases hb.symm.trans hb'
  · simp [HostOp.writesCtrl, offset_of_checkAccess_ctrl .write w a hc]
  · obtain ⟨-, off, ho, -, -, rfl⟩ := checkAccess_ok .write w a r hc
    have hoff : off ≠ 0x00 := by rintro rfl; exact hr rfl
    simp [HostOp.writesCtrl, hb, ho, hoff]

/-- With BUSY = 0 no host operation sets WDROP (R336). -/
theorem hostOp_wdrop_of_idle {op : HostOp} {s t : State} (hb : s.busy = false) (hd : s.wdrop = false)
    (h : hostOp op s = .next t) : t.wdrop = false := by
  by_contra hne
  rcases hostOp_wdrop_ne op s t h (hd.symm ▸ hne) with ⟨-, ht⟩ | ⟨w, a, v, r, -, -, ⟨-, hb', -⟩ | ⟨ht, -⟩⟩
  · exact hne ht
  · cases hb.symm.trans hb'
  · exact hne ht

@[simp] theorem writeReg_host (r : WindowReg) (v : Reg32) (s : State) : (writeReg r v s).host = s.host := by
  rcases writeReg_cases r v s with h | ⟨-, -, h⟩ | ⟨-, -, h⟩ | ⟨n, -, -, h⟩ | ⟨n, -, -, h⟩ | ⟨-, -, h⟩ <;> rw [h]

@[simp] theorem writeReg_turns (r : WindowReg) (v : Reg32) (s : State) : (writeReg r v s).turns = s.turns := by
  rcases writeReg_cases r v s with h | ⟨-, -, h⟩ | ⟨-, -, h⟩ | ⟨n, -, -, h⟩ | ⟨n, -, -, h⟩ | ⟨-, -, h⟩ <;> rw [h]

/-- No host operation touches the operations still to come. -/
theorem hostOp_host {op : HostOp} {s t : State} (h : hostOp op s = .next t) : t.host = s.host := by
  rcases hostOp_cases op s t h with
    ⟨-, rfl⟩ | ⟨r, rfl, -⟩ | ⟨w, a, v, r, -, -, ⟨-, -, rfl⟩ | ⟨-, -, rfl⟩ | ⟨-, rfl⟩⟩
  case inr.inr.inr.inr => exact writeReg_host r v s
  all_goals rfl

theorem eq_poll_of_waits {op : HostOp} (h : op.waits = true) : op = .poll := by
  cases op with
  | poll => rfl
  | read | write | reset => cases h

/-- The operations of a waiting host begin with a poll, which is no command: they are as well polled once BUSY = 0. -/
theorem polledOps_false_of_true {ops : List HostOp} (h : polledOps true ops = true) : polledOps false ops = true := by
  cases ops with
  | nil => rfl
  | cons op rest =>
    obtain ⟨hw, hrest⟩ : op.waits = true ∧ polledOps false rest = true := by simpa [polledOps] using h
    obtain rfl := eq_poll_of_waits hw
    exact hrest

/-- A waiting host's next operation with BUSY = 1 is a poll. -/
theorem State.Polled.eq_poll {s : State} {op : HostOp} {rest : List HostOp} (h : s.Polled) (hb : s.busy = true)
    (hh : s.host = op :: rest) : op = .poll := by
  have hops : op.waits = true ∧ polledOps false rest = true := by simpa [State.Polled, hb, hh, polledOps] using h
  exact eq_poll_of_waits hops.1

theorem polled_complete {s : State} (h : s.Polled) : (complete s).Polled := by
  unfold State.Polled at h ⊢
  rw [complete_busy, complete_host]
  cases hb : s.busy with
  | false => exact hb ▸ h
  | true => exact polledOps_false_of_true (hb ▸ h)

/-- With BUSY = 0, BUSY = 1 after the operation exactly when a poll has to follow. -/
theorem polled_hostOp {s t : State} {op : HostOp} {rest : List HostOp} (h : s.Polled) (hb : s.busy = false)
    (hh : s.host = op :: rest) (hop : hostOp op { s with host := rest } = .next t) : t.Polled := by
  unfold State.Polled at h ⊢
  rw [hostOp_host hop, hostOp_busy_eq_writesCtrl (s := { s with host := rest }) hb hop]
  simpa [hb, hh, polledOps] using h

/-! ## Runs of the core -/

theorem run_succ {s t : State} (h : step s = .next t) (n : Nat) : core.run (n + 1) s = core.run n t := by
  have hstep : core.step s = .next t := h
  simp only [Host.Core.run, hstep]

/-- A host operation served in a busy window ends it, or leaves the turns as they are. -/
theorem hostOp_turns_of_busy {op : HostOp} {s t : State} (hb : s.busy = true) (h : hostOp op s = .next t) :
    t.busy = false ∨ t.turns = s.turns := by
  rcases hostOp_cases op s t h with
    ⟨-, rfl⟩ | ⟨r, rfl, -⟩ | ⟨w, a, v, r, -, -, ⟨-, -, rfl⟩ | ⟨-, hb', -⟩ | ⟨-, rfl⟩⟩
  · exact .inl rfl
  · exact .inr rfl
  · exact .inr rfl
  · cases hb.symm.trans hb'
  · exact .inr (writeReg_turns r v s)

/-- No access among the operations is refused (R273). -/
def Admitted (ops : List HostOp) : Prop :=
  (∀ w a, HostOp.read w a ∈ ops → ∃ r, checkAccess ⟨.read, w, a⟩ = .ok r) ∧
    (∀ w a v, HostOp.write w a v ∈ ops → ∃ r, checkAccess ⟨.write, w, a⟩ = .ok r)

theorem Admitted.tail {op : HostOp} {rest : List HostOp} (h : Admitted (op :: rest)) : Admitted rest := by
  obtain ⟨hread, hwrite⟩ := h
  exact ⟨fun w a hmem => hread w a (.tail op hmem), fun w a v hmem => hwrite w a v (.tail op hmem)⟩

theorem busWrite_next (r : WindowReg) (v : Reg32) (s : State) : ∃ t, busWrite r v s = .next t := by
  by_cases hr : r = .ctrl
  · subst hr
    cases hb : s.busy with
    | true => exact ⟨_, busWrite_of_busy .ctrl v s hb (.inl rfl)⟩
    | false => exact ⟨_, busWrite_ctrl_of_idle v s hb⟩
  · exact ⟨_, busWrite_of_ne_ctrl r v s hr⟩

theorem Admitted.hostOp_next {op : HostOp} {rest : List HostOp} (h : Admitted (op :: rest)) (s : State) :
    ∃ t, hostOp op s = .next t := by
  obtain ⟨hread, hwrite⟩ := h
  cases op with
  | poll | reset => exact ⟨_, rfl⟩
  | read w a =>
    obtain ⟨r, hr⟩ := hread w a List.mem_cons_self
    exact ⟨_, hostOp_read_of_ok w a r s hr⟩
  | write w a v =>
    obtain ⟨r, hr⟩ := hwrite w a v List.mem_cons_self
    obtain ⟨t, ht⟩ := busWrite_next r v s
    exact ⟨t, (hostOp_write_of_ok w a v r s hr).trans ht⟩

/-- A step of a busy window ends it or uses one turn. -/
theorem step_of_busy_window {s : State} (hb : s.busy = true) (hadm : Admitted s.host) :
    ∃ t, step s = .next t ∧ (t.busy = false ∨ (s.turns = t.turns + 1 ∧ Admitted t.host)) := by
  rcases step_cases s with ⟨-, hb', -⟩ | ⟨-, -, hs⟩ | ⟨op, rest, n, hh, -, -, ht, hs⟩ | ⟨op, rest, -, hb', -⟩
  · cases hb.symm.trans hb'
  · exact ⟨complete s, hs, .inl (complete_busy s)⟩
  · rw [hh] at hadm
    obtain ⟨t, hop⟩ := hadm.hostOp_next { s with host := rest, turns := n }
    refine ⟨t, hs.trans hop, ?_⟩
    rcases hostOp_turns_of_busy (s := { s with host := rest, turns := n }) hb hop with hidle | hturns
    · exact .inl hidle
    · refine .inr ⟨by rw [ht, hturns], ?_⟩
      rw [hostOp_host hop]
      exact hadm.tail
  · cases hb.symm.trans hb'

/-- A busy window with fewer than n turns left ends after at most n steps. -/
theorem exists_run_idle (n : Nat) (s : State) (hn : s.turns < n) (hadm : Admitted s.host) :
    ∃ k t, k ≤ n ∧ core.run k s = .next t ∧ t.busy = false := by
  induction n generalizing s with
  | zero => exact absurd hn (Nat.not_lt_zero _)
  | succ n ih =>
    cases hb : s.busy with
    | false => exact ⟨0, s, Nat.zero_le _, rfl, hb⟩
    | true =>
      obtain ⟨t, hs, hidle | ⟨hturns, hadm'⟩⟩ := step_of_busy_window hb hadm
      · exact ⟨1, t, Nat.le_add_left _ _, run_succ hs 0, hidle⟩
      · obtain ⟨k, u, hk, hrun, hidle⟩ := ih t (by omega) hadm'
        exact ⟨k + 1, u, Nat.succ_le_succ hk, (run_succ hs k).trans hrun, hidle⟩

/-! ## A command word accepted -/

theorem acceptWord_of_command {v : Reg32} {i : Instr} (s : State) (h : Sys2Proof.decode v = .command i) :
    acceptWord v s = exec i s := by
  rw [acceptWord_eq_accept, wordRule_of_command s h, exec_eq_accept]

/-- A CTRL write with BUSY = 0 is the acceptance of its word (R35, R272). -/
theorem step_of_ctrl_write {s : State} {addr : BusAddr} {v : Reg32} {rest : List HostOp} (hb : s.busy = false)
    (ho : addr.offset = some 0x00) (hh : s.host = .write 32 addr v :: rest) :
    step s = acceptWord v { s with host := rest } := by
  rw [step_of_idle hh hb, hostOp_write_of_ok 32 addr v .ctrl _ (checkAccess_of_offset .write addr 0x00 ho rfl (by decide)),
    busWrite_ctrl_of_idle v { s with host := rest } hb, acceptWord_eq_accept]

theorem decode_of_decodeTableWord {nbits w : Nat} {i : Instr} (h : decodeTableWord nbits w = some i) :
    Sys2Proof.decode (BitVec.ofNat 32 (w % 2 ^ nbits)) = .command i := by
  unfold decodeTableWord at h
  split at h
  · split at h
    · cases h
      assumption
    · cases h
  · cases h

/-- No rule of a command reads the host's operations. -/
theorem ruleOf_with_host (i : Instr) (s : State) (ops : List HostOp) : ruleOf i { s with host := ops } = ruleOf i s := by
  cases i <;> rfl

end Sys2Proof.Machine

open Sys2Proof Sys2Proof.Machine

/-- Settles O56: with BUSY = 1 the host only polls, and with BUSY = 0 no write is dropped. -/
theorem waitingHostNeverHasAWriteDropped : Obligations.WaitingHostNeverHasAWriteDropped := by
  intro s t hpolled hd h
  rcases step_cases s with ⟨-, -, hs⟩ | ⟨-, -, hs⟩ | ⟨op, rest, n, hh, hb, hne, -, -⟩ | ⟨op, rest, hh, hb, hs⟩
  · obtain rfl : s = t := by simpa [hs] using h
    exact ⟨hpolled, hd⟩
  · obtain rfl : complete s = t := by simpa [hs] using h
    exact ⟨polled_complete hpolled, (complete_wdrop s).trans hd⟩
  · exact absurd (hpolled.eq_poll hb hh) hne
  · have hop := hs.symm.trans h
    exact ⟨polled_hostOp hpolled hb hh hop, hostOp_wdrop_of_idle (s := { s with host := rest }) hb hd hop⟩

/-- Settles O15, by induction on the turns left. -/
theorem everyBusyWindowEnds : Obligations.EveryBusyWindowEnds := fun s hread hwrite =>
  exists_run_idle (s.turns + 1) s (Nat.lt_succ_self _) ⟨hread, hwrite⟩

/-- Settles O10: the write is the acceptance of its word. -/
theorem stepRunsTheDecodedCommand : Obligations.StepRunsTheDecodedCommand := by
  intro s addr v rest hb ho hh
  rw [step_of_ctrl_write hb ho hh]
  refine ⟨fun i hd => acceptWord_of_command _ hd, fun why hd => ?_⟩
  rw [acceptWord_eq_accept, wordRule_of_illegal _ hd]
  rfl

/-- Settles O11: `withFetchWord` places a CTRL write at offset 0. -/
theorem fetchWordIsRunByTheNextStep : Obligations.FetchWordIsRunByTheNextStep := by
  intro s w i h
  exact (step_of_ctrl_write (s := s.withFetchWord 32 w) rfl rfl rfl).trans
    (acceptWord_of_command _ (decode_of_decodeTableWord h))

/-- Settles O57: the acceptance, the completion that the poll waits for, and the read of STATUS that ends it. -/
theorem runCommandIsAcceptCompletePoll : Obligations.RunCommandIsAcceptCompletePoll := by
  intro s t i rest hb hwf hh hcom
  rw [committed_eq, ruleOf_with_host, Option.some.injEq] at hcom
  have haccept : step s = .next (accept (finish (ruleOf i s)) { s with host := .poll :: rest }) := by
    rw [step_of_ctrl_write hb rfl hh, acceptWord_of_command _ (decode_encode hwf), exec_eq_accept, ruleOf_with_host]
  have hcomplete : step (accept (finish (ruleOf i s)) { s with host := .poll :: rest }) =
      .next { t with host := .poll :: rest } := by
    rw [step_of_completes rfl (.inr (.inr ⟨rest, rfl⟩)), complete_accept, ← hcom]
    rfl
  have hpoll : step { t with host := .poll :: rest } = .next { t with reads := readValue .status t :: s.reads } := by
    rw [step_of_idle rfl (by rw [← hcom]), ← hcom]
    rfl
  rw [run_succ haccept, run_succ hcomplete, run_succ hpoll]
  rfl
end

section
/-! What each command writes (R100, R202, R230): the shape of its Result, and the state it leaves when its rule raises
nothing; then the frame of every command and the round trip on the machine. -/

namespace Sys2Proof

/-- The commands that can write STATE, with the operands at which they do (R195 to R202, R230, R231, R260 to R263). -/
def Instr.WritesState (i : Instr) : Prop :=
  i = .loadState ∨ i = .subBytes ∨ i = .invSubBytes ∨ i = .shiftRows ∨ i = .invShiftRows ∨ i = .mixColumns ∨
    i = .invMixColumns ∨ i = .encrypt 16 ∨ i = .decrypt 16 ∨
    ∃ k ≤ 10, i = .addRoundKey k ∨ i = .encRound k ∨ i = .encLast k ∨ i = .decRound k ∨ i = .decLast k

/-- The commands that can write LUT_RESULT, with the operands at which they do (R140 to R143). -/
def Instr.WritesLut (i : Instr) : Prop :=
  (∃ a, i = .lutSbox a) ∨ (∃ a, i = .lutInvSbox a) ∨ (∃ r : Byte, 1 ≤ r.toNat ∧ r.toNat ≤ 10 ∧ i = .lutRcon r) ∨
    ∃ a b, i = .lutGfMul a b

namespace Machine

/-! ## What a Result names -/

/-- A Result names nothing, or only what is its command's to write. -/
theorem writes_finish_ruleOf (i : Instr) (s : State) :
    (finish (ruleOf i s)).writes = {} ∨
    (i.WritesState ∧ ∃ b, (finish (ruleOf i s)).writes = { state := some b }) ∨
    (i = .keyExpand 16 ∧ ∃ rk, (finish (ruleOf i s)).writes = { rk := some rk, keyValid := some true }) ∨
    (i.WritesLut ∧ ∃ v, (finish (ruleOf i s)).writes = { lut := some v }) := by
  have keyed (f : Block → RoundKey → Block) (k : Nat) :
      (finish (keyedRule f k s)).writes = {} ∨ (k ≤ 10 ∧ ∃ b, (finish (keyedRule f k s)).writes = { state := some b }) := by
    rcases keyedRule_cases f k s with ⟨-, h⟩ | ⟨-, -, h⟩ | ⟨rk, hk, -, -, h⟩ <;> rw [h]
    · exact .inl rfl
    · exact .inl rfl
    · exact .inr ⟨hk, _, rfl⟩
  cases i with
  | nop => exact .inl rfl
  | loadState | subBytes | invSubBytes | shiftRows | invShiftRows | mixColumns | invMixColumns =>
    exact .inr (.inl ⟨by simp [Instr.WritesState], _, rfl⟩)
  | addRoundKey k | encRound k | encLast k | decRound k | decLast k =>
    exact (keyed _ k).imp_right fun ⟨hk, hw⟩ => .inl ⟨by simp [Instr.WritesState, hk], hw⟩
  | encrypt len =>
    rcases encryptRule_cases len s with ⟨-, h⟩ | ⟨-, -, h⟩ | ⟨rfl, -, h⟩ <;> rw [ruleOf, h]
    · exact .inl rfl
    · exact .inl rfl
    · exact .inr (.inl ⟨by simp [Instr.WritesState], _, rfl⟩)
  | decrypt len =>
    rcases decryptRule_cases len s with ⟨-, h⟩ | ⟨-, -, h⟩ | ⟨rfl, -, h⟩ <;> rw [ruleOf, h]
    · exact .inl rfl
    · exact .inl rfl
    · exact .inr (.inl ⟨by simp [Instr.WritesState], _, rfl⟩)
  | keyExpand len =>
    rcases keyExpandRule_cases len s with ⟨-, h⟩ | ⟨rfl, h⟩ <;> rw [ruleOf, h]
    · exact .inl rfl
    · exact .inr (.inr (.inl ⟨rfl, _, rfl⟩))
  | lutRcon r =>
    rcases lutRconRule_cases r s with ⟨-, h⟩ | ⟨c, -, hr, h⟩ <;> rw [h]
    · exact .inl rfl
    · exact .inr (.inr (.inr ⟨.inr (.inr (.inl ⟨r, by omega, by omega, rfl⟩)), _, rfl⟩))
  | lutSbox a | lutInvSbox a | lutGfMul a b => exact .inr (.inr (.inr ⟨by simp [Instr.WritesLut], _, rfl⟩))

/-! ## A command whose rule raises nothing -/

/-- It is accepted with BUSY = 1, and its completion commits what the rule writes, with ERR <- 0 (R100). -/
theorem exec_completes {i : Instr} {s : State} {w : Writes} (h : ruleOf i s = .ok w) :
    ∃ t, exec i s = .next t ∧ t.busy = true ∧
      complete t = { commit ⟨w, .success⟩ s with busy := false, pending := none, turns := 0, draws := s.draws + 1 } :=
  ⟨_, exec_eq_accept i s, rfl, by rw [complete_accept, h, finish_ok]⟩

theorem committed_of_ok {i : Instr} {s : State} {w : Writes} (h : ruleOf i s = .ok w) :
    committed i s =
      some { commit ⟨w, .success⟩ s with busy := false, pending := none, turns := 0, draws := s.draws + 1 } := by
  rw [committed_eq, h, finish_ok]

theorem encryptRule_of_valid {s : State} (hv : s.keyValid = true) :
    ruleOf (.encrypt 16) s = .ok { state := some (encryptBlock s.din s.rk) } := by
  rw [ruleOf, encryptRule, hv]
  rfl

theorem decryptRule_of_valid {s : State} (hv : s.keyValid = true) :
    ruleOf (.decrypt 16) s = .ok { state := some (decryptBlock s.din s.rk) } := by
  rw [ruleOf, decryptRule, hv]
  rfl

theorem keyedRule_of_valid (f : Block → RoundKey → Block) {k : Nat} {s : State} {rk : RoundKey} (hv : s.keyValid = true)
    (hk : s.rk.roundKey k = some rk) : keyedRule f k s = .ok { state := some (f s.state rk) } := by
  rw [keyedRule, operandRoundKey_of_some k s.rk rk hk, hv]
  rfl

theorem lutRconRule_of_some {r c : Byte} (s : State) (h : rcon r.toNat = some c) :
    ruleOf (.lutRcon r) s = .ok { lut := some c } := by
  rw [ruleOf, lutRconRule, operandRcon, h]
  rfl

end Machine
end Sys2Proof

open Sys2Proof Sys2Proof.Machine

/-- Settles O25: acceptance shows nothing, and the completion writes what the Result names. -/
theorem commandsWriteOnlyTheirOwnState : Obligations.CommandsWriteOnlyTheirOwnState := by
  intro i s t h
  obtain rfl : accept (finish (ruleOf i s)) s = t := by simpa [exec_eq_accept] using h
  refine ⟨⟨finish (ruleOf i s), rfl⟩, rfl, rfl, rfl, rfl, rfl, rfl, rfl, ?_⟩
  rw [complete_accept]
  simp only [commit_state, commit_rk, commit_keyValid, commit_lut]
  rcases writes_finish_ruleOf i s with hw | ⟨hi, b, hw⟩ | ⟨hi, rk, hw⟩ | ⟨hi, v, hw⟩ <;> rw [hw]
  · exact ⟨absurd rfl, fun hne => hne.elim (absurd rfl) (absurd rfl), absurd rfl⟩
  · exact ⟨fun _ => hi, fun hne => hne.elim (absurd rfl) (absurd rfl), absurd rfl⟩
  · exact ⟨absurd rfl, fun _ => hi, absurd rfl⟩
  · exact ⟨absurd rfl, fun hne => hne.elim (absurd rfl) (absurd rfl), fun _ => hi⟩

/-- Settles O19: NOP's rule writes nothing. -/
theorem nopClearsErrOnly : Obligations.NopClearsErrOnly := fun s => exec_completes (i := .nop) (s := s) rfl

/-- Settles O21: with KEY_VALID = 1 and LEN = 16 both rules raise nothing. -/
theorem encryptAndDecryptWriteTheirBlockToState : Obligations.EncryptAndDecryptWriteTheirBlockToState := fun _ hv =>
  ⟨exec_completes (encryptRule_of_valid hv), exec_completes (decryptRule_of_valid hv)⟩

/-- Settles O22: the seven rules make no check. -/
theorem transformCommandsWriteState : Obligations.TransformCommandsWriteState := by
  intro s i b h
  have hrule : ruleOf i s = .ok { state := some b } := by
    rcases h with ⟨rfl, rfl⟩ | ⟨rfl, rfl⟩ | ⟨rfl, rfl⟩ | ⟨rfl, rfl⟩ | ⟨rfl, rfl⟩ | ⟨rfl, rfl⟩ | ⟨rfl, rfl⟩ <;> rfl
  exact exec_completes hrule

/-- Settles O23: with KEY_VALID = 1 and a round key at RKIDX a format K rule raises nothing. -/
theorem keyedCommandsWriteState : Obligations.KeyedCommandsWriteState := by
  intro s k rk i b hv hk h
  have hrule : ruleOf i s = .ok { state := some b } := by
    rcases h with ⟨rfl, rfl⟩ | ⟨rfl, rfl⟩ | ⟨rfl, rfl⟩ | ⟨rfl, rfl⟩ | ⟨rfl, rfl⟩ <;> exact keyedRule_of_valid _ hv hk
  exact exec_completes hrule

/-- Settles O24: the lookup rules make no check but LUT_RCON's of its argument. -/
theorem lookupCommandsWriteLutResult : Obligations.LookupCommandsWriteLutResult := by
  intro s i v h
  have hrule : ruleOf i s = .ok { lut := some v } := by
    rcases h with ⟨a, rfl, rfl⟩ | ⟨a, rfl, rfl⟩ | ⟨r, rfl, hr⟩ | ⟨a, b, rfl, rfl⟩
    · rfl
    · rfl
    · exact lutRconRule_of_some s hr
    · rfl
  exact exec_completes hrule

/-- Settles O40: DECRYPT of the block ENCRYPT left, with the same schedule, is the first block. -/
theorem decryptCommandRestoresTheEncryptedBlock : Obligations.DecryptCommandRestoresTheEncryptedBlock := by
  intro s hv
  exact ⟨_, _, committed_of_ok (encryptRule_of_valid hv), committed_of_ok (decryptRule_of_valid hv),
    decryptBlock_encryptBlock s.din s.rk, rfl, rfl, hv⟩
end

section
/-! The tables and the HW path: the S-box from the inverse in GF(2^8) (R124, R126), and the HW-path sequences against
CipherDriver (R254, R255). -/

namespace Sys2Proof.Machine

/-! ## The inverse in GF(2^8) (R124) -/

/-- The affine step of R126. -/
def sboxAffine (t : Byte) : Byte :=
  t ^^^ t.rotateLeft 1 ^^^ t.rotateLeft 2 ^^^ t.rotateLeft 3 ^^^ t.rotateLeft 4 ^^^ 0x63

/-- The inverse of a byte, read off the table of R125 by undoing the affine step; 0 for 0. -/
def gfInv (a : Byte) : Byte :=
  (sbox a).rotateLeft 1 ^^^ (sbox a).rotateLeft 3 ^^^ (sbox a).rotateLeft 6 ^^^ 0x05

theorem sbox_eq_sboxAffine_gfInv : ∀ a : Byte, sbox a = sboxAffine (gfInv a) :=
  forall_byte _ (by decide +kernel)

theorem gfMul_gfInv : ∀ a : Byte, a ≠ 0 → gfMul a (gfInv a) = 1 :=
  forall_byte _ (by decide +kernel)

/-- Two inverses of a byte are equal. -/
theorem eq_of_gfMul_eq_one {a t t' : Byte} (h : gfMul a t = 1) (h' : gfMul a t' = 1) : t' = t := by
  calc t' = gfMul (gfMul a t) t' := by rw [h]; exact (one_gfMul t').symm
    _ = gfMul t (gfMul a t') := by rw [gfMul_comm a t, gfMul_assoc]
    _ = t := by rw [h', gfMul_one]

theorem eq_gfInv_of_gfMul_eq_one {a t : Byte} (h : gfMul a t = 1) : t = gfInv a := by
  have hne : a ≠ 0 := by
    rintro rfl
    cases (zero_gfMul t).symm.trans h
  exact eq_of_gfMul_eq_one (gfMul_gfInv a hne) h

/-- R128: no entry of the table is its own place, or its complement. -/
theorem sbox_no_fixed_point : ∀ a : Byte, sbox a ≠ a ∧ sbox a ≠ a ^^^ 0xFF :=
  forall_byte _ (by decide +kernel)

/-! ## The HW path (R254, R255) -/

/-- A middle round of the HW path is one of CipherDriver's. -/
theorem encRound_eq_encryptMiddle : encRound = encryptMiddle := rfl

/-- A decryption round of the HW path does InvShiftRows and InvSubBytes first, where CipherDriver's turn does them last. -/
theorem decryptMiddle_invSubBytes_invShiftRows (b : Block) (rk : RoundKey) :
    decryptMiddle (invSubBytes (invShiftRows b)) rk = invSubBytes (invShiftRows (decRound b rk)) := rfl

theorem decryptBlockHw_eq_decryptBlock (c : Block) (rk : Schedule) : decryptBlockHw c rk = decryptBlock c rk := by
  have hloop := List.foldl_hom (fun b => invSubBytes (invShiftRows b)) (g₁ := decRound) (g₂ := decryptMiddle)
    (l := (middleKeys rk).reverse) (init := addRoundKey c rk.rk10) decryptMiddle_invSubBytes_invShiftRows
  rw [decryptBlockHw, decLast, ← hloop]
  rfl

theorem encryptBlockHw_eq_encryptBlock (p : Block) (rk : Schedule) : encryptBlockHw p rk = encryptBlock p rk := by
  rw [encryptBlockHw, encLast, encRound_eq_encryptMiddle]
  rfl

end Sys2Proof.Machine

open Sys2Proof Sys2Proof.Machine

/-- Settles O27: a nonzero byte has one inverse, and the table holds its affine transform. -/
theorem sboxIsTheAffineTransformOfTheInverse : Obligations.SboxIsTheAffineTransformOfTheInverse := by
  refine ⟨fun a ha => ⟨gfInv a, gfMul_gfInv a ha, fun t' => eq_of_gfMul_eq_one (gfMul_gfInv a ha)⟩, fun a t h => ?_⟩
  have ht : t = gfInv a := by
    rcases h with ⟨rfl, rfl⟩ | h
    · decide
    · exact eq_gfInv_of_gfMul_eq_one h
  rw [ht]
  exact sbox_eq_sboxAffine_gfInv a

/-- Settles O28: the two tables are inverse, and SBOX has no fixed or opposite fixed point. -/
theorem sboxAndInvSboxAreInverseBijections : Obligations.SboxAndInvSboxAreInverseBijections :=
  ⟨fun a => ⟨invSbox_sbox a, sbox_invSbox a⟩, sbox_no_fixed_point⟩

/-- Settles O39: the rounds of encryption are the same; those of decryption are shifted by InvShiftRows and InvSubBytes. -/
theorem hardwarePathEqualsSoftwarePath : Obligations.HardwarePathEqualsSoftwarePath := fun b rk =>
  ⟨encryptBlockHw_eq_encryptBlock b rk, decryptBlockHw_eq_decryptBlock b rk⟩
end

section
/-! Reads of the window (R37, R271, R335): the registers left to name, what a read is in a busy window and outside one, and
where the window stands on the bus (log 7). -/

namespace Sys2Proof.Machine

@[simp] theorem regAt_dout (n : Fin 4) : regAt (0x30 + 4 * n) = .dout n := by fin_cases n <;> rfl

theorem rkdataView_of_gt (s : State) (n : Fin 4) (h : 10 < s.rksel.toNat) : rkdataView s n = 0 := by
  simp [rkdataView, (roundKey_eq_none_iff s.rk s.rksel.toNat).2 h]

theorem readValue_lut_of_idle (s : State) (hb : s.busy = false) : readValue .lut s = s.lut.setWidth 32 := by
  simp [readValue, hb]

/-- R335: the registers a read of which is a free draw while BUSY = 1. STATUS only holds one. -/
theorem readValue_of_busy {r : WindowReg} {s : State} (hb : s.busy = true)
    (hr : r = .lut ∨ ∃ n, r = .dout n ∨ r = .rkdata n) : readValue r s = Config.freeWord s.draws := by
  rcases hr with rfl | ⟨n, rfl | rfl⟩ <;> simp [readValue, hb]

theorem drawsWhenBusy_iff (r : WindowReg) :
    r.drawsWhenBusy = true ↔ r = .status ∨ r = .lut ∨ ∃ n, r = .dout n ∨ r = .rkdata n := by
  cases r <;> simp [WindowReg.drawsWhenBusy]

/-- With BUSY = 0 nothing a register shows is touched by a read. -/
theorem readValue_busRead_of_idle (r r' : WindowReg) {s : State} (hb : s.busy = false) :
    readValue r' (busRead r s) = readValue r' s := by
  have hb' : (busRead r s).busy = false := hb
  cases r' with
  | ctrl | key | din | rksel | reserved => rfl
  | status => simp [statusView, hb]
  | dout n => rw [readValue_dout_of_idle n _ hb', readValue_dout_of_idle n s hb, busRead_state]
  | rkdata n =>
    rw [readValue_rkdata_of_idle n _ hb', readValue_rkdata_of_idle n s hb]
    rfl
  | lut => rw [readValue_lut_of_idle _ hb', readValue_lut_of_idle s hb, busRead_lut]

/-! ## The window on the bus (R9, R66, R69) -/

theorem offset_base_add (off : Nat) : (BusAddr.absolute (Config.base + off)).offset = some off := by
  simp [BusAddr.offset]

/-- A 32-bit access that names no offset below 256 is outside the window. -/
theorem checkAccess_outside (k : AccessKind) (a : BusAddr) (h : ∀ off, a.offset = some off → 0x100 ≤ off) :
    checkAccess ⟨k, 32, a⟩ = .error (.outsideWindow ⟨k, 32, a⟩) := by
  cases ho : a.offset with
  | none => simp [checkAccess, ho]
  | some off => simp [checkAccess, ho, h off ho]

end Sys2Proof.Machine

open Sys2Proof Sys2Proof.Machine

/-- Settles O42, register by register. -/
theorem windowReadsFollowTheRegisterMap : Obligations.WindowReadsFollowTheRegisterMap := by
  refine fun s => ⟨rfl, fun n => ?_, rfl, fun off hoff => ?_, fun hb => ⟨fun n => ?_, readValue_lut_of_idle s hb⟩⟩
  · rw [regAt_key, regAt_din]
    exact ⟨readValue_key n s, readValue_din n s⟩
  · rw [regAt_reserved off (hoff.imp_right (Or.imp_right And.left)), readValue_reserved]
  · rw [regAt_dout, regAt_rkdata, readValue_rkdata_of_idle n s hb]
    exact ⟨readValue_dout_of_idle n s hb, fun k => rkdataView_of_roundKey s n k, rkdataView_of_gt s n⟩

/-- Settles O44: such a read returns the present draw and moves the counter. -/
theorem busyReadsAreFreeDraws : Obligations.BusyReadsAreFreeDraws := by
  intro s r hb hr
  have hdraws : r.drawsWhenBusy = true := (drawsWhenBusy_iff r).2 (.inr hr)
  rw [busRead, readValue_of_busy hb hr, hb, hdraws]
  rfl

/-- Settles O45: a read changes the record and the draw counter, which only the free draws of a busy window show. -/
theorem readsHaveNoSideEffect : Obligations.ReadsHaveNoSideEffect := by
  refine fun s r r' => ⟨rfl, drawsWhenBusy_iff r, fun hb => by simp [hb], ?_⟩
  rintro (hb | rfl | rfl | rfl | ⟨n, rfl | rfl⟩)
  · exact readValue_busRead_of_idle r r' hb
  all_goals rfl

/-- Settles O51: BASE is 256 times a page number, and an offset is counted from it. -/
theorem busAddressesReachTheWindowAtBase : Obligations.BusAddressesReachTheWindowAtBase := by
  refine ⟨Nat.mul_mod_right 256 _, offset_base_add, fun k a ha => checkAccess_outside k _ fun off ho => ?_⟩
  simp only [BusAddr.offset] at ho
  split at ho
  · have hoff := Option.some.inj ho
    omega
  · cases ho
end
